-- ==== Sys2Proof/Word.lean ====
section
/-! DEFINITION. The bit-vector widths of the machine (00_scope.md R6, R7). -/

namespace Sys2Proof

/-- A byte: memory, operands, AL, AH, tty entries. -/
abbrev Byte := BitVec 8

/-- A 16-bit register, CS, IP or FLAGS (R6). -/
abbrev Word := BitVec 16

/-- A 20-bit physical address (R7). -/
abbrev PhysAddr := BitVec 20

end Sys2Proof
end

