-- ==== Sys2Proof/Syntax.lean ====
section
/-! DEFINITION. The instructions: one constructor for each row of spec/opcode_table.json, the catch-all
row (unknown opcode) among them (30_encoding.md R56). -/

namespace Sys2Proof

/-- What one opcode byte selects, before its operand byte is read (R56). -/
inductive Opcode where
  | jmpShort | intImm8 | movAl | movAh | hlt | nop
  | unknown (b : Byte)
  deriving DecidableEq, Repr

/-- One instruction with its operand byte. -/
inductive Instr where
  /-- `JMP short rel8`, 0xEB (R62). -/
  | jmpShort (rel8 : Byte)
  /-- `INT imm8`, 0xCD (R63). -/
  | intImm8 (n : Byte)
  /-- `MOV AL, imm8`, 0xB0 (R71). -/
  | movAl (imm8 : Byte)
  /-- `MOV AH, imm8`, 0xB4 (R72). -/
  | movAh (imm8 : Byte)
  /-- `HLT`, 0xF4 (R74). -/
  | hlt
  /-- `NOP`, 0x90 (R75). -/
  | nop
  /-- Any other opcode byte: the termination of R78. Not an instruction of the source; a row of the table
  (log entry 13). -/
  | unknownOpcode (opcode : Byte)
  deriving DecidableEq, Repr

/-- The spec's mnemonic, for a reader of a trace (R60; 30_encoding.md section 4). -/
def Instr.mnemonic : Instr → String
  | .jmpShort _ => "JMP short rel8"
  | .intImm8 _ => "INT imm8"
  | .movAl _ => "MOV AL, imm8"
  | .movAh _ => "MOV AH, imm8"
  | .hlt => "HLT"
  | .nop => "NOP"
  | .unknownOpcode _ => "(unknown opcode)"

end Sys2Proof
end

