-- ==== Sys2Proof/WellFormed.lean ====
section
/-! DEFINITION. Which terms of `Instr` stand for words of the machine. Every operand is a whole byte, so
the one check is that an unknown opcode is none of the six defined bytes (30_encoding.md R56, R57). -/

namespace Sys2Proof

/-- The six defined opcode bytes (00_scope.md R3). -/
def definedOpcodes : List Byte := [0xEB#8, 0xCD#8, 0xB0#8, 0xB4#8, 0xF4#8, 0x90#8]

/-- A well-formed instruction: `unknownOpcode b` only for one of the 250 other bytes (R57). -/
def Instr.wf : Instr → Bool
  | .jmpShort _ | .intImm8 _ | .movAl _ | .movAh _ | .hlt | .nop => true
  | .unknownOpcode b => !definedOpcodes.contains b

end Sys2Proof
end

