-- ==== Sys2Proof/Decode.lean ====
section
/-! DEFINITION. The decoder (30_encoding.md R51 to R59), total on any list of bytes, and after it the
encoder and the assembler's jump operand (R60). Bytes stand in address order, lowest first. -/

namespace Sys2Proof

/-- The decoder of R56: total on the opcode byte; the 250 other bytes are unknown (R57). -/
def decodeOpcode (b : Byte) : Opcode :=
  if b = 0xEB#8 then .jmpShort
  else if b = 0xCD#8 then .intImm8
  else if b = 0xB0#8 then .movAl
  else if b = 0xB4#8 then .movAh
  else if b = 0xF4#8 then .hlt
  else if b = 0x90#8 then .nop
  else .unknown b

/-- Format F1 (an operand byte follows) or F0 (none does); an unknown opcode reads nothing more
(R52, R53, R59). -/
def Opcode.hasOperand : Opcode → Bool
  | .jmpShort | .intImm8 | .movAl | .movAh => true
  | .hlt | .nop | .unknown _ => false

/-- The instruction an opcode makes with its operand byte; the byte is ignored where the format has none. -/
def Opcode.toInstr : Opcode → Byte → Instr
  | .jmpShort, op8 => .jmpShort op8
  | .intImm8, op8 => .intImm8 op8
  | .movAl, op8 => .movAl op8
  | .movAh, op8 => .movAh op8
  | .hlt, _ => .hlt
  | .nop, _ => .nop
  | .unknown b, _ => .unknownOpcode b

/-- Why a byte list is no instruction: it ends too soon. -/
inductive DecodeError where
  | noOpcodeByte
  | operandByteMissing (opcode : Byte)
  deriving DecidableEq, Repr

/-- Decode the instruction at the head of a byte list; the rest of the list follows it (R51). -/
def decode : List Byte → Except DecodeError (Instr × List Byte)
  | [] => .error .noOpcodeByte
  | b :: rest =>
    if (decodeOpcode b).hasOperand then
      match rest with
      | [] => .error (.operandByteMissing b)
      | op8 :: rest' => .ok ((decodeOpcode b).toInstr op8, rest')
    else .ok ((decodeOpcode b).toInstr 0#8, rest)

/-- `rel8` as a 16-bit displacement: two's complement, not scaled (R54). -/
def relOffset (rel8 : Byte) : Word := rel8.signExtend 16

/-- The opcode byte of an instruction (30_encoding.md section 4). -/
def opcodeByte : Instr → Byte
  | .jmpShort _ => 0b11101011#8
  | .intImm8 _ => 0b11001101#8
  | .movAl _ => 0b10110000#8
  | .movAh _ => 0b10110100#8
  | .hlt => 0b11110100#8
  | .nop => 0b10010000#8
  | .unknownOpcode b => b

/-- The operand byte of an instruction, if its format has one (R52, R53). -/
def operandByte : Instr → Option Byte
  | .jmpShort op8 | .intImm8 op8 | .movAl op8 | .movAh op8 => some op8
  | .hlt | .nop | .unknownOpcode _ => none

/-- The bytes of an instruction in address order (R60). -/
def encode (i : Instr) : List Byte :=
  opcodeByte i :: (operandByte i).toList

/-- `Len(ins)` of R76: 2 for F1, 1 for F0; for an unknown opcode the one byte that is read (R59). -/
def instrLength (i : Instr) : Nat := (encode i).length

/-- The operand byte an assembler writes for `JMP short <target>` at offset `ip0`; none where no
displacement in [-128, +127] reaches the target (R60). -/
def assembleJmpShort (ip0 target : Word) : Option Byte :=
  let d := target - (ip0 + 2#16)
  let rr := d.setWidth 8
  if relOffset rr = d then some rr else none

/-- The host's reading of one table word: `nbits` bits of `w`, the first byte in bits 7..0, the second in
bits 15..8, and zero above `nbits`. -/
def tableWordBytes (nbits w : Nat) : List Byte :=
  let v := w % 2 ^ nbits
  [BitVec.ofNat 8 v, BitVec.ofNat 8 (v / 256)]

/-- The instruction the decoder reads from a table word. -/
def decodeTableWord (nbits w : Nat) : Option Instr :=
  match decode (tableWordBytes nbits w) with
  | .ok (i, _) => some i
  | .error _ => none

end Sys2Proof
end

