-- ==== Sys2Proof/Machine/Records.lean ====
section
/-! DEFINITION. The plain data the engine records: its run state, why a run ended, what a service did,
and one trace record (10_state.md R26, R28; 60_exceptions.md R77, R92). -/

namespace Sys2Proof.Machine

/-- The run state of the block (R26). -/
inductive RunState where
  | idle | loadFailed | running | halted
  deriving DecidableEq, Repr

/-- The termination record `term` when it is not empty: one of the five reasons of R77, each with the
information R77 and R28 say is recorded. -/
inductive Termination where
  /-- Code 1: 0xF4 (R74). -/
  | cleanHalt
  /-- Code 2: the opcode byte and the CS:IP at which it was found (R78). -/
  | unknownOpcode (opcode : Byte) (cs ip : Word)
  /-- Code 3: the address that failed the access check (R79). -/
  | addressOutOfRange (addr : Nat)
  /-- Code 4: the image's length (R100). -/
  | imageTooShort (length : Nat)
  /-- Code 5: the image's bytes at offsets 510 and 511 (R101). -/
  | invalidSignature (byte510 byte511 : Byte)
  deriving DecidableEq, Repr

/-- The `status` report of a termination: its code, the 'ran' mark and the record itself (R77, R95). -/
structure StatusReport where
  code   : Nat
  ran    : Bool
  record : Termination
  deriving DecidableEq, Repr

/-- What the interrupt-service convention selects (R64), in the names the trace gives it (R92). -/
inductive ServiceOutcome where
  | teletype (al : Byte)
  | unhandledSubfunction (ah : Byte)
  | unhandledInterrupt (n : Byte)
  deriving DecidableEq, Repr

/-- The `operand` field of a trace record: `rel8` as a signed value, an unsigned byte, or none (R92). -/
inductive TraceOperand where
  | none
  | rel (v : Int)
  | byte (b : Byte)
  deriving DecidableEq, Repr

/-- The `outcome` field of a trace record (R92). -/
inductive TraceOutcome where
  | newIp (ip : Word)
  | service (o : ServiceOutcome) (ip : Word)
  | load (ax ip : Word)
  | halt
  deriving DecidableEq, Repr

/-- One trace record `(cs, ip0, opcode, operand, outcome)` (R92). -/
structure TraceRecord where
  cs      : Word
  ip0     : Word
  opcode  : Byte
  operand : TraceOperand
  outcome : TraceOutcome
  deriving DecidableEq, Repr

end Sys2Proof.Machine
end

