-- ==== Sys2Proof/Config.lean ====
section
/-! DEFINITION. The parameters of 00_scope.md section 3: the fixed ones as constants, the two OPEN ones
(`INIT_MEM`, `TRACE_FORMAT`) as free values with no body. -/

namespace Sys2Proof.Config

/-- `MEM_SIZE` = 2^20 bytes (R7). -/
def memSize : Nat := 0x100000

/-- `SECTOR_SIZE` (R8). -/
def sectorSize : Nat := 512

/-- `LOAD_SEG` (R8). -/
def loadSeg : Word := 0x0000#16

/-- `LOAD_OFF`, the entry offset (R8). -/
def loadOff : Word := 0x7C00#16

/-- `LOAD_ADDR`: the sector occupies [0x7C00, 0x7E00) (R8). -/
def loadAddr : Nat := 0x7C00

/-- `SIG_OFFSET` and `SIG_BYTES` (R8). -/
def sigOffset0 : Nat := 510
def sigOffset1 : Nat := 511
def sigByte0 : Byte := 0x55#8
def sigByte1 : Byte := 0xAA#8

/-- `INT_VIDEO`, the one interrupt number with a service (R64). -/
def intVideo : Byte := 0x10#8

/-- `FN_TELETYPE`, the one sub-function of it (R64). -/
def fnTeletype : Byte := 0x0E#8

/-- `INIT_MEM` (R9, R109): what a byte of memory holds that no listed cell gives. OPEN in the spec
("The model ... assumes nothing about it"), so it is a FREE VALUE: it has no body, and no proof can see
one. DESIGN CHOICE: log entry 1. -/
opaque initMem : Nat → Byte

/-- `TRACE_FORMAT` (R92): the text of a trace line. OPEN in the spec, and no rule reads it: a FREE VALUE.
DESIGN CHOICE: log entry 9. -/
opaque traceFormat : Machine.TraceRecord → String

end Sys2Proof.Config
end

