-- ==== Sys2Proof/Machine/State.lean ====
section
/-! DEFINITION. The state of the block, whole, as plain data (10_state.md R31), its stops, and the state
after reset. -/

namespace Sys2Proof.Machine

/-- The eight general registers (R13). -/
inductive Reg where
  | ax | bx | cx | dx | sp | bp | si | di
  deriving DecidableEq, Repr

/-- The listed bytes of memory, addresses strictly rising (`Memory.wf`). A byte that is not listed holds
its `INIT_MEM` byte (R9, R33; log entry 1). -/
abbrev Memory := List Host.Cell

/-- The complete state of R31. -/
structure State where
  /-- The general registers (R13). -/
  ax : Word
  bx : Word
  cx : Word
  dx : Word
  sp : Word
  bp : Word
  si : Word
  di : Word
  /-- The code segment (R18). -/
  cs : Word
  /-- The instruction pointer (R19). -/
  ip : Word
  /-- The inert flags register (R23, R24). -/
  flags : Word
  /-- Physical memory (R33). -/
  mem : Memory
  /-- The run state (R26). -/
  run : RunState
  /-- The termination record; none is the spec's 'empty' (R28). -/
  term : Option Termination
  /-- The latched debug flag (R29). -/
  debug : Bool
  /-- The teletype output, oldest byte first (R30). -/
  tty : List Byte
  /-- The diagnostic trace, oldest record first (R30). -/
  trace : List TraceRecord
  deriving DecidableEq, Repr

/-- Why a step stops. R27: outside `Running` "the engine has no step", so a step there is a final state
and not a behaviour (log entry 6). All three are raised by `engineStep` alone, and all are SAFE: the spec gives no step. -/
inductive Fault where
  /-- No image has been loaded (R27, R110). Safe. -/
  | engineIdle
  /-- The load failed validation, and the engine never starts (R27, R105). Safe. -/
  | engineLoadFailed
  /-- The run has ended; `Halted` is terminal (R27, R96). Safe. -/
  | engineHalted
  deriving DecidableEq, Repr

/-- What the model declines. -/
inductive Refusal where
  /-- Raised by an arm of `exec` with no meaning yet. No arm of this model raises it. Safe. -/
  | notModelled (mnemonic : String)
  /-- Raised by `load` outside `Idle`: "`load` is accepted only in `run = Idle`" (R99). Safe. -/
  | loadNotIdle
  deriving DecidableEq, Repr

/-- The block before its `load` transaction, the only reset it has (R26, R110; 70_reset_and_hazards.md
sections 1 and 2). Registers hold the reset values of R108, which the load writes again; in `Idle` the
spec calls them not defined. DESIGN CHOICE: log entries 2 and 3. -/
def State.reset : State where
  ax := 0#16
  bx := 0#16
  cx := 0#16
  dx := 0#16
  sp := 0#16
  bp := 0#16
  si := 0#16
  di := 0#16
  cs := Config.loadSeg
  ip := Config.loadOff
  flags := 0#16
  mem := []
  run := .idle
  term := none
  debug := false
  tty := []
  trace := []

end Sys2Proof.Machine
end

