-- ==== Sys2Proof/Machine/Ops.lean ====
section
/-! DEFINITION. The shared operations: memory, address formation, the register file, the instruction
pointer, the tty output, and ending the run (20_memory.md; 10_state.md R14 to R21; 60_exceptions.md
R77 to R84). -/

namespace Sys2Proof.Machine

/-! ### Memory -/

/-- The listed byte at an address, if there is one. -/
def Memory.listed : Memory → Nat → Option Byte
  | [], _ => none
  | (k, v) :: m, a => if k = a then some v else Memory.listed m a

/-- What an unlisted address reads as: its `INIT_MEM` byte (R9, R44; log entry 1). -/
def Memory.unlisted (a : Nat) : Byte := Config.initMem a

/-- `mem[a]` (R33, R38). -/
def Memory.byteAt (m : Memory) (a : Nat) : Byte :=
  match Memory.listed m a with
  | some v => v
  | none => Memory.unlisted a

/-- `mem[a] <- v`, keeping the addresses strictly rising (R40). -/
def Memory.set : Memory → Nat → Byte → Memory
  | [], a, b => [(a, b)]
  | (k, v) :: m, a, b =>
    if a < k then (a, b) :: (k, v) :: m
    else if a = k then (a, b) :: m
    else (k, v) :: Memory.set m a b

/-- Addresses rise strictly from `lo` on and stay inside the memory. -/
def Memory.risingFrom : Nat → Memory → Bool
  | _, [] => true
  | lo, (k, _) :: m => decide (lo ≤ k) && decide (k < Config.memSize) && Memory.risingFrom (k + 1) m

/-- The canonical form of memory. -/
def Memory.wf (m : Memory) : Bool := Memory.risingFrom 0 m

/-- `MemRead(a, 1)`: the byte, after the check of R37 against a memory of `size` bytes (`MEM_SIZE` on
this hardware); a failed check gives the address and makes no access. -/
def memRead (size : Nat) (m : Memory) (a : Nat) : Except Nat Byte :=
  if a < size then .ok (Memory.byteAt m a) else .error a

/-- `MemWrite(a, 1, v)` after the check of R37 (R40). -/
def memWrite (size : Nat) (m : Memory) (a : Nat) (v : Byte) : Except Nat Memory :=
  if a < size then .ok (Memory.set m a v) else .error a

/-! ### Address formation -/

/-- `phys(seg, off)`, wrapped to 20 bits (R35). -/
def phys (seg off : Word) : PhysAddr := (seg.setWidth 20 <<< 4) + off.setWidth 20

/-- The physical address of byte `k` of the instruction at CS:IP, counted on from the opcode's physical
address modulo 2^20 (R36; the spec's own decision 92 D3, log entry 4). -/
def instrAddr (s : State) (k : Nat) : Nat := (phys s.cs s.ip + BitVec.ofNat 20 k).toNat

/-- Byte `k` of the instruction at CS:IP. -/
def State.fetchByte (s : State) (k : Nat) : Byte := Memory.byteAt s.mem (instrAddr s k)

/-! ### Registers -/

/-- `R[r]` (R13). -/
def State.reg (s : State) : Reg → Word
  | .ax => s.ax
  | .bx => s.bx
  | .cx => s.cx
  | .dx => s.dx
  | .sp => s.sp
  | .bp => s.bp
  | .si => s.si
  | .di => s.di

/-- `R[r] <- v`; no register is hardwired (R16). -/
def State.setReg (s : State) (r : Reg) (v : Word) : State :=
  match r with
  | .ax => { s with ax := v }
  | .bx => { s with bx := v }
  | .cx => { s with cx := v }
  | .dx => { s with dx := v }
  | .sp => { s with sp := v }
  | .bp => { s with bp := v }
  | .si => { s with si := v }
  | .di => { s with di := v }

/-- `IP <- v`. CS takes no carry (R21). -/
def State.setIp (s : State) (v : Word) : State := { s with ip := v }

/-- `IP <- (IP0 + n) mod 2^16` (R20, R21). -/
def State.advance (s : State) (n : Nat) : State := s.setIp (s.ip + BitVec.ofNat 16 n)

/-! ### Outputs -/

/-- `Emit(tty, b)` (R30, R65): the byte, not interpreted (R69; log entry 8). -/
def State.emitTty (s : State) (b : Byte) : State := { s with tty := s.tty ++ [b] }

/-! ### Ending the run

The hardware has no trap entry and no trap return (R83, R84): every exceptional condition ends the run. -/

/-- Did the engine run? The 'ran' column of R77. -/
def Termination.ran : Termination → Bool
  | .cleanHalt | .unknownOpcode _ _ _ | .addressOutOfRange _ => true
  | .imageTooShort _ | .invalidSignature _ _ => false

/-- The code of a reason (R77). -/
def Termination.code : Termination → Nat
  | .cleanHalt => 1
  | .unknownOpcode _ _ _ => 2
  | .addressOutOfRange _ => 3
  | .imageTooShort _ => 4
  | .invalidSignature _ _ => 5

/-- The 'run after' column of R77. -/
def Termination.runAfter (w : Termination) : RunState :=
  if w.ran then .halted else .loadFailed

/-- `raise Terminate(reason, info)`: write `term` and leave `Running` (or `Idle`, for a load that fails).
Nothing else changes (R77 to R80, R83). -/
def terminate (w : Termination) (s : State) : State :=
  { s with run := w.runAfter, term := some w }

/-- The `status` output: the report of `term`, present once it is written (R95; log entry 10). -/
def State.status (s : State) : Option StatusReport :=
  s.term.map fun w => { code := w.code, ran := w.ran, record := w }

/-- The text of the trace lines, by the OPEN parameter `TRACE_FORMAT` (R92). -/
def State.traceText (s : State) : List String := s.trace.map Config.traceFormat

end Sys2Proof.Machine
end

