-- ==== Sys2Proof/Machine/Operands.lean ====
section
/-! DEFINITION. The operand forms: the byte names of AX (10_state.md R14), the unsigned immediate
(30_encoding.md R55, used as is) and the relative target (R54, R62). -/

namespace Sys2Proof.Machine

/-- `R[AL]`: bits 7..0 of AX (R14). -/
def State.al (s : State) : Byte := (s.reg .ax).extractLsb' 0 8

/-- `R[AH]`: bits 15..8 of AX (R14). -/
def State.ah (s : State) : Byte := (s.reg .ax).extractLsb' 8 8

/-- `hi : lo`, two bytes as one word (00_scope.md section 5). -/
def joinBytes (hi lo : Byte) : Word := (hi.setWidth 16 <<< 8) ||| lo.setWidth 16

/-- `R[AX][15:8] : v` (R71). -/
def State.axWithAl (s : State) (v : Byte) : Word := joinBytes s.ah v

/-- `v : R[AX][7:0]` (R72). -/
def State.axWithAh (s : State) (v : Byte) : Word := joinBytes v s.al

/-- `R[AL] <- v`; AH keeps its bits (R14). -/
def State.setAl (s : State) (v : Byte) : State := s.setReg .ax (s.axWithAl v)

/-- `R[AH] <- v`; AL keeps its bits (R14). -/
def State.setAh (s : State) (v : Byte) : State := s.setReg .ax (s.axWithAh v)

/-- `(IP0 + 2 + sext_16(rel8)) mod 2^16` (R62). -/
def jumpTarget (ip0 : Word) (rel8 : Byte) : Word := ip0 + 2#16 + relOffset rel8

end Sys2Proof.Machine
end

