-- ==== Sys2Proof/Machine/Accumulator.lean ====
section
/-! DEFINITION. The accumulator byte loads (42_accumulator_load.md). -/

namespace Sys2Proof.Machine

/-- `MOV AL, imm8` (R71). -/
def execMovAl (imm8 : Byte) (s : State) : Host.Outcome State Fault Refusal :=
  .next ((s.setAl imm8).advance 2)

/-- `MOV AH, imm8` (R72). -/
def execMovAh (imm8 : Byte) (s : State) : Host.Outcome State Fault Refusal :=
  .next ((s.setAh imm8).advance 2)

end Sys2Proof.Machine
end

