-- ==== Sys2Proof/Machine/Control.lean ====
section
/-! DEFINITION. Control transfer: `JMP short rel8` (40_control_transfer.md). -/

namespace Sys2Proof.Machine

/-- `JMP short rel8` (R62): IP only. -/
def execJmpShort (rel8 : Byte) (s : State) : Host.Outcome State Fault Refusal :=
  .next (s.setIp (jumpTarget s.ip rel8))

end Sys2Proof.Machine
end

