-- ==== Sys2Proof/Machine/Interrupt.lean ====
section
/-! DEFINITION. The software interrupt and its service convention (41_software_interrupt.md). -/

namespace Sys2Proof.Machine

/-- Which service `INT n` selects: the number first, then AH (R64). -/
def serviceOutcome (n ah al : Byte) : ServiceOutcome :=
  if n = Config.intVideo then
    if ah = Config.fnTeletype then .teletype al else .unhandledSubfunction ah
  else .unhandledInterrupt n

/-- `Service(n, R[AH], R[AL])`: teletype output emits AL (R65); anything else does nothing (R66, R67). -/
def service (n : Byte) (s : State) : State :=
  match serviceOutcome n s.ah s.al with
  | .teletype al => s.emitTty al
  | .unhandledSubfunction _ => s
  | .unhandledInterrupt _ => s

/-- `INT imm8` (R63): the service, then IP past the two bytes. None of the x86 interrupt mechanics (R68). -/
def execIntImm8 (n : Byte) (s : State) : Host.Outcome State Fault Refusal :=
  .next ((service n s).advance 2)

end Sys2Proof.Machine
end

