-- ==== Sys2Proof/Machine/Processor.lean ====
section
/-! DEFINITION. Processor control: `HLT` and `NOP` (43_processor_control.md), and the row of the table for
every other opcode byte (60_exceptions.md R78). -/

namespace Sys2Proof.Machine

/-- `HLT` (R74): a clean halt; IP is not advanced. -/
def execHlt (s : State) : Host.Outcome State Fault Refusal :=
  .next (terminate .cleanHalt s)

/-- `NOP` (R75): IP only. -/
def execNop (s : State) : Host.Outcome State Fault Refusal :=
  .next (s.advance 1)

/-- An unknown opcode ends the run with the byte and CS:IP; IP stays (R78; log entry 5). -/
def execUnknownOpcode (opcode : Byte) (s : State) : Host.Outcome State Fault Refusal :=
  .next (terminate (.unknownOpcode opcode s.cs s.ip) s)

end Sys2Proof.Machine
end

