-- ==== Sys2Proof/Machine/Dispatch.lean ====
section
/-! DEFINITION. `perform ins` of 60_exceptions.md R76: one arm for each constructor of `Instr`.
`engineStep` calls it, in `Running` only (log entry 6). -/

namespace Sys2Proof.Machine

def exec (i : Instr) (s : State) : Host.Outcome State Fault Refusal :=
  match i with
  | .jmpShort rel8 => Sys2Proof.Machine.execJmpShort rel8 s
  | .intImm8 n => Sys2Proof.Machine.execIntImm8 n s
  | .movAl imm8 => Sys2Proof.Machine.execMovAl imm8 s
  | .movAh imm8 => Sys2Proof.Machine.execMovAh imm8 s
  | .hlt => Sys2Proof.Machine.execHlt s
  | .nop => Sys2Proof.Machine.execNop s
  | .unknownOpcode opcode => Sys2Proof.Machine.execUnknownOpcode opcode s

end Sys2Proof.Machine
end

