-- ==== Sys2Proof/Machine/Trace.lean ====
section
/-! DEFINITION. The diagnostic trace (60_exceptions.md R91 to R94; its content is the spec's own decision
92 D9, log entry 9). -/

namespace Sys2Proof.Machine

/-- The `operand` column of R92. -/
def traceOperand : Instr → TraceOperand
  | .jmpShort rel8 => .rel rel8.toInt
  | .intImm8 n => .byte n
  | .movAl imm8 => .byte imm8
  | .movAh imm8 => .byte imm8
  | .hlt | .nop | .unknownOpcode _ => .none

/-- The `outcome` column of R92, from the state `perform ins` reads (R76); none for an unknown opcode,
which is not traced (R91). -/
def traceOutcome (i : Instr) (s : State) : Option TraceOutcome :=
  match i with
  | .jmpShort rel8 => some (.newIp (jumpTarget s.ip rel8))
  | .intImm8 n => some (.service (serviceOutcome n s.ah s.al) (s.ip + 2#16))
  | .movAl imm8 => some (.load (s.axWithAl imm8) (s.ip + 2#16))
  | .movAh imm8 => some (.load (s.axWithAh imm8) (s.ip + 2#16))
  | .hlt => some .halt
  | .nop => some (.newIp (s.ip + 1#16))
  | .unknownOpcode _ => none

/-- The trace record of a step that performs `i` (R92). -/
def traceRecord (i : Instr) (s : State) : Option TraceRecord :=
  (traceOutcome i s).map fun o =>
    { cs := s.cs, ip0 := s.ip, opcode := opcodeByte i, operand := traceOperand i, outcome := o }

/-- `if DEBUG then Emit(trace, ...)`, before the effects of the step (R76, R91, R93). -/
def emitTrace (i : Instr) (s : State) : State :=
  if s.debug then { s with trace := s.trace ++ (traceRecord i s).toList } else s

end Sys2Proof.Machine
end

