-- ==== Sys2Proof/Machine/Engine.lean ====
section
/-! DEFINITION. Fetching an instruction and the engine's step (60_exceptions.md R76). -/

namespace Sys2Proof.Machine

/-- Fetch and decode at CS:IP (R76, R41): the opcode byte, and the operand byte only where the format has
one. Each read is checked against a memory of `size` bytes; a failed check gives the address (R37). -/
def fetch (size : Nat) (s : State) : Except Nat Instr :=
  match memRead size s.mem (instrAddr s 0) with
  | .error a => .error a
  | .ok op =>
    if (decodeOpcode op).hasOperand then
      match memRead size s.mem (instrAddr s 1) with
      | .error a => .error a
      | .ok op8 => .ok ((decodeOpcode op).toInstr op8)
    else .ok ((decodeOpcode op).toInstr 0#8)

/-- One step over a memory of `size` bytes (R76). The size is `MEM_SIZE` on this hardware, where the
access check cannot fail; R37 keeps the check "as a guard for a model that takes a smaller memory".
Outside `Running` there is no step (R27).
Log entries 6 and 7. -/
def engineStep (size : Nat) (s : State) : Host.Outcome State Fault Refusal :=
  match s.run with
  | .idle => .fault .engineIdle
  | .loadFailed => .fault .engineLoadFailed
  | .halted => .fault .engineHalted
  | .running =>
    match fetch size s with
    | .error a => .next (terminate (.addressOutOfRange a) s)
    | .ok i => exec i (emitTrace i s)

/-- Store a list of bytes at successive instruction addresses from byte `k` of the instruction at CS:IP. -/
def placeBytes (s : State) : Nat → List Byte → Memory
  | _, [] => s.mem
  | k, b :: bs => Memory.set (placeBytes s (k + 1) bs) (instrAddr s k) b

end Sys2Proof.Machine
end

