-- ==== Sys2Proof/Machine/Step.lean ====
section
/-! DEFINITION. One step of the machine, and the state whose next step fetches a given table word. -/

namespace Sys2Proof.Machine

/-- One step (R12, R76). -/
def step (s : State) : Host.Outcome State Fault Refusal := engineStep Config.memSize s

/-- The table word's bytes stored where `step` fetches, in a block whose engine is running. The engine
fetches only when `Running`, so this stands for the load that starts it (log entry 3). -/
def State.withFetchWord (s : State) (nbits w : Nat) : State :=
  { s with mem := placeBytes s 0 (tableWordBytes nbits w), run := .running, term := none }

end Sys2Proof.Machine
end

