-- ==== Sys2Proof/Machine/Boot.lean ====
section
/-! DEFINITION. The Boot Loader: the block's one input transaction, `load(image, debug)`
(70_reset_and_hazards.md R99 to R109). The image is an argument, not state (10_state.md R31). -/

namespace Sys2Proof.Machine

/-- The validation, length first (R100 to R102); none when both checks pass. -/
def validateImage (image : List Byte) : Option Termination :=
  if image.length < Config.sectorSize then some (.imageTooShort image.length)
  else if image.getD Config.sigOffset0 0#8 ≠ Config.sigByte0 ∨ image.getD Config.sigOffset1 0#8 ≠ Config.sigByte1 then
    some (.invalidSignature (image.getD Config.sigOffset0 0#8) (image.getD Config.sigOffset1 0#8))
  else none

/-- `MemWrite` of successive bytes from `addr` on, each checked (R37, R103). -/
def stage (size : Nat) : Nat → List Byte → Memory → Except Nat Memory
  | _, [], m => .ok m
  | addr, b :: bs, m =>
    match memWrite size m addr b with
    | .error a => .error a
    | .ok m' => stage size (addr + 1) bs m'

/-- The state at the first step of a run over memory `m` (R106 to R108). -/
def startState (m : Memory) (debug : Bool) : State where
  ax := 0#16
  bx := 0#16
  cx := 0#16
  dx := 0#16
  sp := 0#16
  bp := 0#16
  si := 0#16
  di := 0#16
  cs := Config.loadSeg
  ip := Config.loadOff
  flags := 0#16
  mem := m
  run := .running
  term := none
  debug := debug
  tty := []
  trace := []

/-- `load(image, debug)`, accepted only in `Idle` (R99). A failed validation stages nothing, writes
only the run state and `term`, and ends the block's life (R105; log entry 11); otherwise the first 512 bytes are staged (R103, R104) and the engine starts. A failed
access check in staging ends the run as R79 says; it cannot fail with `MEM_SIZE` = 2^20. -/
def load (image : List Byte) (debug : Bool) (s : State) : Host.Outcome State Fault Refusal :=
  match s.run with
  | .loadFailed | .running | .halted => .refused .loadNotIdle
  | .idle =>
    match validateImage image with
    | some w => .next (terminate w s)
    | none =>
      match stage Config.memSize Config.loadAddr (image.take Config.sectorSize) s.mem with
      | .error a => .next (terminate (.addressOutOfRange a) s)
      | .ok m => .next (startState m debug)

end Sys2Proof.Machine
end

