-- ==== Sys2Proof/Machine/Flags.lean ====
section
/-! DEFINITION. FLAGS is inert: no instruction reads or writes it and the spec gives none of its sixteen
bits a meaning (10_state.md R23, R24). So there is no flag computation on this hardware; the one thing to
say is that FLAGS is kept whole. -/

namespace Sys2Proof.Machine

/-- The flag effect of every instruction: none (R24). -/
abbrev State.keepsFlags (s t : State) : Prop := t.flags = s.flags

end Sys2Proof.Machine
end

