-- ==== Sys2Proof/Safety.lean ====
section
/-! DEFINITION. The vocabulary of the claims: frames, the invariant of a block's life, the states a block
can reach, runs, and agreement up to the trace. -/

namespace Sys2Proof.Machine

/-- `k` steps, each of which gives a next state. -/
def State.run? (k : Nat) (s : State) : Host.Outcome State Fault Refusal :=
  Host.Core.run Sys2Proof.core k s

/-- What no step changes: every register but AX, CS, FLAGS, DEBUG, and every byte of memory (R15, R18,
R23, R29, R39). -/
structure State.Keeps (s t : State) : Prop where
  regs   : ∀ r : Reg, r ≠ .ax → t.reg r = s.reg r
  cs     : t.cs = s.cs
  flags  : s.keepsFlags t
  dbg    : t.debug = s.debug
  memory : ∀ a : Nat, Memory.byteAt t.mem a = Memory.byteAt s.mem a

/-- The run goes on as it was: run state and termination record unchanged. -/
abbrev State.keepsRun (s t : State) : Prop := t.run = s.run ∧ t.term = s.term

/-- What the termination record says is true of the state it is read in (R77, R78). No run of this
hardware ends with `AddressOutOfRange` (R37). -/
def State.reportTrue (s : State) : Termination → Prop
  | .cleanHalt => s.fetchByte 0 = 0xF4#8
  | .unknownOpcode op cs ip => op = s.fetchByte 0 ∧ op ∉ definedOpcodes ∧ cs = s.cs ∧ ip = s.ip
  | .addressOutOfRange _ => False
  | .imageTooShort n => n < 512
  | .invalidSignature b b' => ¬ (b = 0x55#8 ∧ b' = 0xAA#8)

/-- The invariant of a block's life. -/
structure State.Inv (s : State) : Prop where
  /-- Memory is in its canonical form (log entry 1). -/
  memory : Memory.wf s.mem = true
  /-- `term` is empty exactly in `Idle` and `Running` (R28). -/
  empty : s.term = none ↔ s.run = .idle ∨ s.run = .running
  /-- A termination record fits the run state (R77) and is true. -/
  report : ∀ w, s.term = some w → s.run = w.runAfter ∧ s.reportTrue w
  /-- Nothing is output before the engine runs (in `Idle` log entry 2, after a failed load log entry 11). -/
  quiet : s.run = .idle ∨ s.run = .loadFailed → s.tty = [] ∧ s.trace = []
  /-- Without DEBUG there is no trace (R91). -/
  untraced : s.debug = false → s.trace = []
  /-- CS, FLAGS and the seven registers no instruction reaches are zero: in a run by R15, R18 and R23, in `Idle`
by log entry 2, after a failed load by log entry 11. -/
  inert : s.cs = 0#16 ∧ s.flags = 0#16 ∧ ∀ r : Reg, r ≠ .ax → s.reg r = 0#16
  /-- Once the engine has started, the signature stands in memory (R103). -/
  signature : s.run = .running ∨ s.run = .halted →
    Memory.byteAt s.mem 0x7DFE = 0x55#8 ∧ Memory.byteAt s.mem 0x7DFF = 0xAA#8

/-- The states a block can be in: `Idle` over any buffer its caller supplies, then what `load` and `step`
make of it (R2, R9, R27, R99). -/
inductive State.Reachable : State → Prop where
  | idle (m : Memory) (h : Memory.wf m = true) : State.Reachable { State.reset with mem := m }
  | load (s t : State) (image : List Byte) (debug : Bool) :
      State.Reachable s → load image debug s = .next t → State.Reachable t
  | step (s t : State) : State.Reachable s → step s = .next t → State.Reachable t

/-- An image that passes both checks of the Boot Loader (R100, R101). -/
def validImage (image : List Byte) : Prop :=
  512 ≤ image.length ∧ image.getD 510 0#8 = 0x55#8 ∧ image.getD 511 0#8 = 0xAA#8

/-- Two states that differ at most in DEBUG and the trace (R94). -/
def State.agreeButTrace (s t : State) : Prop :=
  { s with debug := t.debug, trace := t.trace } = t

/-- Two outcomes that differ at most in DEBUG and the trace. -/
def outcomesAgreeButTrace :
    Host.Outcome State Fault Refusal → Host.Outcome State Fault Refusal → Prop
  | .next s, .next t => s.agreeButTrace t
  | .fault r, .fault r' => r = r'
  | .refused r, .refused r' => r = r'
  | .next _, .fault _ | .next _, .refused _ | .fault _, .next _ | .fault _, .refused _
  | .refused _, .next _ | .refused _, .fault _ => False

end Sys2Proof.Machine
end

