-- ==== Sys2Proof/Certificates/Slice0/Obligations.lean ====
section
/-! DEFINITION. The statements for the provers, in the order of OBLIGATIONS.json. Each docstring names the
rule of spec/ it formalises, or the model's choice it rests on. -/

open Sys2Proof Sys2Proof.Machine

/-! ### Reset, memory and address formation -/

/-- What `State.reset` holds. THE MODEL'S CHOICE (log entries 2 and 3): the block before its `load`,
with the registers at the values R108 gives them after it. -/
def Obligations.ResetBlockIsIdleAndEmpty : Prop :=
  State.reset.run = .idle ∧ State.reset.term = none ∧ State.reset.debug = false ∧
    State.reset.tty = [] ∧ State.reset.trace = [] ∧ State.reset.mem = [] ∧
    (∀ r : Reg, State.reset.reg r = 0x0000#16) ∧
    State.reset.cs = 0x0000#16 ∧ State.reset.ip = 0x7C00#16 ∧ State.reset.flags = 0x0000#16

/-- `MemRead` and `MemWrite` (R38, R40) with their access check, for a memory of any size. The check and its
error answer are the spec's own decision (R37, 92 D4, log entry 7). -/
def Obligations.AccessesAreCheckedThenMade : Prop :=
  ∀ (size : Nat) (m : Memory) (a : Nat) (v : Byte),
    (a < size →
      memRead size m a = .ok (Memory.byteAt m a) ∧
      ∃ m', memWrite size m a v = .ok m' ∧ Memory.byteAt m' a = v ∧
        ∀ a', a' ≠ a → Memory.byteAt m' a' = Memory.byteAt m a') ∧
    (size ≤ a → memRead size m a = .error a ∧ memWrite size m a v = .error a)

/-- Two memories in canonical form that list the same bytes are the same data. -/
def Obligations.CanonicalMemoriesWithEqualBytesAreEqual : Prop :=
  ∀ m m' : Memory, Memory.wf m = true → Memory.wf m' = true →
    (∀ a, Memory.listed m a = Memory.listed m' a) → m = m'

/-- R35: the physical address of a segment and an offset, and so IP itself where the segment is zero. -/
def Obligations.PhysicalAddressIsSegmentTimesSixteenPlusOffset : Prop :=
  (∀ seg off : Word, (phys seg off).toNat = (seg.toNat * 2 ^ 4 + off.toNat) % 2 ^ 20) ∧
    ∀ ip : Word, (phys 0x0000#16 ip).toNat = ip.toNat

/-- R36: the bytes of an instruction stand at increasing physical addresses. The address past offset
0xFFFF is the spec's own decision (92 D3, log entry 4). -/
def Obligations.InstructionBytesAreAtIncreasingAddresses : Prop :=
  (∀ (s : State) (k : Nat), instrAddr s k = ((phys s.cs s.ip).toNat + k) % 2 ^ 20) ∧
    ∀ s : State, s.cs = 0x0000#16 → s.ip = 0xFFFF#16 → instrAddr s 1 = 0x10000

/-! ### Operands and the byte names of AX -/

/-- R14: AL and AH are the two bytes of AX, and a write to one changes no other bit and no other
register. -/
def Obligations.AlAndAhAreTheTwoBytesOfAx : Prop :=
  ∀ (s : State) (v : Byte),
    (∀ k, k < 8 → s.al.getLsbD k = (s.reg .ax).getLsbD k ∧ s.ah.getLsbD k = (s.reg .ax).getLsbD (8 + k)) ∧
    (s.reg .ax).toNat = s.ah.toNat * 256 + s.al.toNat ∧
    (s.setAl v).al = v ∧ (s.setAl v).ah = s.ah ∧ (s.setAh v).ah = v ∧ (s.setAh v).al = s.al ∧
    ∀ r : Reg, r ≠ .ax → (s.setAl v).reg r = s.reg r ∧ (s.setAh v).reg r = s.reg r

/-- R54: the relative offset is the operand byte in two's complement, sign-extended and not scaled. -/
def Obligations.RelativeOffsetIsTwosComplement : Prop :=
  ∀ b : Byte, (relOffset b).toInt = b.toInt ∧ -128 ≤ b.toInt ∧ b.toInt ≤ 127 ∧
    (b.toNat ≤ 0x7F → b.toInt = b.toNat) ∧ (0x80 ≤ b.toNat → b.toInt = b.toNat - 256)

/-! ### Encoding -/

/-- Words written from the encodings of 30_encoding.md, one for each row of the table. -/
def Obligations.WrittenOutWordsDecode : Prop :=
  decode [0b11101011#8, 0b11111110#8] = .ok (.jmpShort 0xFE#8, []) ∧
    decode [0b11001101#8, 0b00010000#8] = .ok (.intImm8 0x10#8, []) ∧
    decode [0b10110000#8, 0b01000001#8] = .ok (.movAl 0x41#8, []) ∧
    decode [0b10110100#8, 0b00001110#8] = .ok (.movAh 0x0E#8, []) ∧
    decode [0b11110100#8] = .ok (.hlt, []) ∧
    decode [0b10010000#8] = .ok (.nop, []) ∧
    decode [0b10110001#8] = .ok (.unknownOpcode 0xB1#8, [])

/-- R56, R57: every byte but the six selects the unknown opcode, without an operand byte; there are 250. -/
def Obligations.EveryOtherByteIsUnknown : Prop :=
  (∀ (b : Byte) (rest : List Byte), b ∉ [0xEB#8, 0xCD#8, 0xB0#8, 0xB4#8, 0xF4#8, 0x90#8] →
    decode (b :: rest) = .ok (.unknownOpcode b, rest)) ∧
    (List.range 256).countP (fun n => (Instr.unknownOpcode (BitVec.ofNat 8 n)).wf) = 250

/-- Decoding an encoded well-formed instruction gives it back, with whatever follows it. -/
def Obligations.DecodeOfEncodeIsTheInstruction : Prop :=
  ∀ (i : Instr) (rest : List Byte), i.wf = true → decode (encode i ++ rest) = .ok (i, rest)

/-- What decodes is well-formed, and its encoding is the bytes it was decoded from. -/
def Obligations.EncodeOfDecodeIsTheBytes : Prop :=
  ∀ (bs : List Byte) (i : Instr) (rest : List Byte), decode bs = .ok (i, rest) →
    i.wf = true ∧ encode i ++ rest = bs

/-- Decoding fails only where the bytes end before the instruction does. -/
def Obligations.DecodeRejectsOnlyBytesThatEndTooSoon : Prop :=
  ∀ (bs : List Byte) (e : DecodeError), decode bs = .error e ↔
    (bs = [] ∧ e = .noOpcodeByte) ∨
    ∃ b, bs = [b] ∧ b ∈ [0xEB#8, 0xCD#8, 0xB0#8, 0xB4#8] ∧ e = .operandByteMissing b

/-- R60: the assembler's operand byte for a jump reaches its target, and is found whenever some byte does. -/
def Obligations.AssembledJumpReachesItsTarget : Prop :=
  (∀ (ip0 target : Word) (rr : Byte), assembleJmpShort ip0 target = some rr → jumpTarget ip0 rr = target) ∧
    ∀ (ip0 : Word) (rr : Byte), assembleJmpShort ip0 (jumpTarget ip0 rr) = some rr

/-! ### The step -/

/-- R76: the step of a running engine is the decoded instruction, performed after its trace record. -/
def Obligations.StepRunsTheDecodedInstruction : Prop :=
  ∀ (s : State) (i : Instr) (rest : List Byte), s.run = .running →
    decode [s.fetchByte 0, s.fetchByte 1] = .ok (i, rest) → step s = exec i (emitTrace i s)

/-- R27: the engine has a step when it is running and only then, and no load leaves `Halted`. THE MODEL'S
CHOICE: the three named faults that stand for 'no step' (log entry 6) and the named refusal of a load
(log entry 3). -/
def Obligations.EngineStepsExactlyWhenRunning : Prop :=
  ∀ s : State,
    (s.run = .running → ∃ t, step s = .next t) ∧
    (s.run = .idle → step s = .fault .engineIdle) ∧
    (s.run = .loadFailed → step s = .fault .engineLoadFailed) ∧
    (s.run = .halted → step s = .fault .engineHalted ∧
      ∀ (image : List Byte) (d : Bool), load image d s = .refused .loadNotIdle)

/-- R82 over a memory of any size (R37, R79): the check of the opcode fetch comes first, then the unknown
opcode, for which nothing more is read, then the check of the operand fetch. The checks and how a failed one
ends the run are the spec's own decision (92 D4, log entry 7); so is the IP that an unknown opcode leaves
unmoved (92 D5, log entry 5). -/
def Obligations.TerminationsAreTestedInOrder : Prop :=
  ∀ (size : Nat) (s : State), s.run = .running →
    (size ≤ instrAddr s 0 →
      engineStep size s =
        .next { s with run := .halted, term := some (.addressOutOfRange (instrAddr s 0)) }) ∧
    (instrAddr s 0 < size → s.fetchByte 0 ∉ definedOpcodes →
      engineStep size s =
        .next { s with run := .halted, term := some (.unknownOpcode (s.fetchByte 0) s.cs s.ip) }) ∧
    (instrAddr s 0 < size → s.fetchByte 0 ∈ [0xEB#8, 0xCD#8, 0xB0#8, 0xB4#8] → size ≤ instrAddr s 1 →
      engineStep size s =
        .next { s with run := .halted, term := some (.addressOutOfRange (instrAddr s 1)) })

/-- R81: with `MEM_SIZE` = 2^20 no step ends the run with an address out of range. The check is the spec's own
decision (R37, R79, 92 D4, log entry 7). -/
def Obligations.NoStepEndsWithAddressOutOfRange : Prop :=
  ∀ (s t : State) (a : Nat), step s = .next t → t.term = some (.addressOutOfRange a) →
    s.term = some (.addressOutOfRange a)

/-- R20: the new IP of a step, by its opcode byte. The last row is the spec's own decision (92 D5, log
entry 5). -/
def Obligations.EachStepWritesIpByTheTable : Prop :=
  ∀ s t : State, step s = .next t →
    (s.fetchByte 0 = 0x90#8 → t.ip.toNat = (s.ip.toNat + 1) % 2 ^ 16) ∧
    (s.fetchByte 0 ∈ [0xB0#8, 0xB4#8, 0xCD#8] → t.ip.toNat = (s.ip.toNat + 2) % 2 ^ 16) ∧
    (s.fetchByte 0 = 0xEB#8 →
      (t.ip.toNat : Int) = ((s.ip.toNat : Int) + 2 + (s.fetchByte 1).toInt) % 2 ^ 16) ∧
    (s.fetchByte 0 ∉ [0x90#8, 0xB0#8, 0xB4#8, 0xCD#8, 0xEB#8] → t.ip = s.ip)

/-! ### The instructions: each one completes from every state, with its result and its frame, and is what
a running engine performs on its opcode byte -/

/-- R62: the short jump writes IP and nothing else. -/
def Obligations.JmpShortMovesIpByTwoPlusOffset : Prop :=
  (∀ (s : State) (rel8 : Byte), ∃ t, exec (.jmpShort rel8) s = .next t ∧
    (t.ip.toNat : Int) = ((s.ip.toNat : Int) + 2 + rel8.toInt) % 2 ^ 16 ∧
    t.reg .ax = s.reg .ax ∧ s.Keeps t ∧ s.keepsRun t ∧ t.tty = s.tty ∧ t.trace = s.trace) ∧
  ∀ s : State, s.run = .running → s.fetchByte 0 = 0xEB#8 →
    step s = exec (.jmpShort (Memory.byteAt s.mem (((phys s.cs s.ip).toNat + 1) % 2 ^ 20)))
      (emitTrace (.jmpShort (s.fetchByte 1)) s)

/-- R63, R64, R65: INT emits AL for interrupt 0x10 with AH = 0x0E, does nothing else for any service, and
always moves IP by two. -/
def Obligations.IntEmitsAlForTeletypeAndAdvances : Prop :=
  (∀ (s : State) (n : Byte), ∃ t, exec (.intImm8 n) s = .next t ∧
    t.tty = (if n = 0x10#8 ∧ s.ah = 0x0E#8 then s.tty ++ [s.al] else s.tty) ∧
    t.ip.toNat = (s.ip.toNat + 2) % 2 ^ 16 ∧
    t.reg .ax = s.reg .ax ∧ s.Keeps t ∧ s.keepsRun t ∧ t.trace = s.trace) ∧
  ∀ s : State, s.run = .running → s.fetchByte 0 = 0xCD#8 →
    step s = exec (.intImm8 (Memory.byteAt s.mem (((phys s.cs s.ip).toNat + 1) % 2 ^ 20)))
      (emitTrace (.intImm8 (s.fetchByte 1)) s)

/-- R71: `MOV AL, imm8` writes the low byte of AX and keeps the high one. -/
def Obligations.MovAlWritesTheLowByte : Prop :=
  (∀ (s : State) (imm8 : Byte), ∃ t, exec (.movAl imm8) s = .next t ∧
    (t.reg .ax).toNat = (s.reg .ax).toNat / 256 * 256 + imm8.toNat ∧
    t.ip.toNat = (s.ip.toNat + 2) % 2 ^ 16 ∧
    s.Keeps t ∧ s.keepsRun t ∧ t.tty = s.tty ∧ t.trace = s.trace) ∧
  ∀ s : State, s.run = .running → s.fetchByte 0 = 0xB0#8 →
    step s = exec (.movAl (Memory.byteAt s.mem (((phys s.cs s.ip).toNat + 1) % 2 ^ 20)))
      (emitTrace (.movAl (s.fetchByte 1)) s)

/-- R72: `MOV AH, imm8` writes the high byte of AX and keeps the low one. -/
def Obligations.MovAhWritesTheHighByte : Prop :=
  (∀ (s : State) (imm8 : Byte), ∃ t, exec (.movAh imm8) s = .next t ∧
    (t.reg .ax).toNat = imm8.toNat * 256 + (s.reg .ax).toNat % 256 ∧
    t.ip.toNat = (s.ip.toNat + 2) % 2 ^ 16 ∧
    s.Keeps t ∧ s.keepsRun t ∧ t.tty = s.tty ∧ t.trace = s.trace) ∧
  ∀ s : State, s.run = .running → s.fetchByte 0 = 0xB4#8 →
    step s = exec (.movAh (Memory.byteAt s.mem (((phys s.cs s.ip).toNat + 1) % 2 ^ 20)))
      (emitTrace (.movAh (s.fetchByte 1)) s)

/-- R73: the two loads, in either order, leave AX = (imm2 << 8) | imm1 whatever it held. -/
def Obligations.ByteLoadsComposeInEitherOrder : Prop :=
  ∀ (s : State) (imm1 imm2 : Byte), ∃ t u t' u',
    exec (.movAl imm1) s = .next t ∧ exec (.movAh imm2) t = .next u ∧
    exec (.movAh imm2) s = .next t' ∧ exec (.movAl imm1) t' = .next u' ∧
    u.reg .ax = (imm2.setWidth 16 <<< 8) ||| imm1.setWidth 16 ∧ u' = u ∧ s.Keeps u

/-- R74: HLT ends the run cleanly; IP stays, nothing is emitted, and nothing resumes the engine. -/
def Obligations.HltEndsTheRunCleanly : Prop :=
  (∀ s : State, ∃ t, exec .hlt s = .next t ∧ t.run = .halted ∧ t.term = some .cleanHalt ∧
    t.status.map StatusReport.record = some .cleanHalt ∧ t.ip = s.ip ∧
    t.reg .ax = s.reg .ax ∧ s.Keeps t ∧ t.tty = s.tty ∧ t.trace = s.trace ∧
    (∀ t', step t ≠ .next t') ∧ ∀ (image : List Byte) (d : Bool) (t' : State), load image d t ≠ .next t') ∧
  ∀ s : State, s.run = .running → s.fetchByte 0 = 0xF4#8 → step s = exec .hlt (emitTrace .hlt s)

/-- R75: NOP moves IP by one and changes nothing else. -/
def Obligations.NopAdvancesIpByOne : Prop :=
  (∀ s : State, ∃ t, exec .nop s = .next t ∧ t.ip.toNat = (s.ip.toNat + 1) % 2 ^ 16 ∧
    t.reg .ax = s.reg .ax ∧ s.Keeps t ∧ s.keepsRun t ∧ t.tty = s.tty ∧ t.trace = s.trace) ∧
  ∀ s : State, s.run = .running → s.fetchByte 0 = 0x90#8 → step s = exec .nop (emitTrace .nop s)

/-- R78: an unknown opcode ends the run, reports the byte and CS:IP, and changes nothing else, whatever
DEBUG is. That IP stays is the spec's own decision (92 D5, log entry 5). -/
def Obligations.UnknownOpcodeEndsTheRunAndIsReported : Prop :=
  (∀ (s : State) (b : Byte), ∃ t, exec (.unknownOpcode b) s = .next t ∧ t.run = .halted ∧
    t.term = some (.unknownOpcode b s.cs s.ip) ∧
    t.status.map StatusReport.record = some (.unknownOpcode b s.cs s.ip) ∧ t.ip = s.ip ∧
    t.reg .ax = s.reg .ax ∧ s.Keeps t ∧ t.tty = s.tty ∧ t.trace = s.trace) ∧
  ∀ s : State, s.run = .running → s.fetchByte 0 ∉ definedOpcodes →
    step s = exec (.unknownOpcode (s.fetchByte 0)) s

/-! ### Outputs -/

/-- R65, R69, R70: a step emits one byte, AL, exactly when it is INT 0x10 with AH = 0x0E, and no byte
otherwise. -/
def Obligations.EachStepEmitsAlOrNothing : Prop :=
  ∀ s t : State, step s = .next t →
    t.tty = s.tty ++ (if s.fetchByte 0 = 0xCD#8 ∧ s.fetchByte 1 = 0x10#8 ∧ s.ah = 0x0E#8 then [s.al] else [])

/-- R66, R67: an unhandled service changes only IP and the trace, and only the trace tells it from
another; without DEBUG it leaves no trace. -/
def Obligations.UnhandledServiceIsSeenOnlyInTheTrace : Prop :=
  ∀ s : State, s.run = .running → s.fetchByte 0 = 0xCD#8 →
    ¬ (s.fetchByte 1 = 0x10#8 ∧ s.ah = 0x0E#8) →
    ∃ t, step s = .next t ∧ t.ip.toNat = (s.ip.toNat + 2) % 2 ^ 16 ∧ t.reg .ax = s.reg .ax ∧ s.Keeps t ∧
      s.keepsRun t ∧ t.tty = s.tty ∧
      (s.debug = false → t.trace = s.trace) ∧
      (s.debug = true → ∃ r, t.trace = s.trace ++ [r] ∧
        r.outcome = .service (if s.fetchByte 1 = 0x10#8 then .unhandledSubfunction s.ah
          else .unhandledInterrupt (s.fetchByte 1)) t.ip)

/-- R30: `tty` and `trace` are empty at load, and no run removes or changes an entry of either. -/
def Obligations.OutputsAreAppendOnly : Prop :=
  (∀ (s t : State) (image : List Byte) (d : Bool), load image d s = .next t → t.run = .running →
    t.tty = [] ∧ t.trace = []) ∧
  ∀ (k : Nat) (s t : State), s.run? k = .next t → s.tty <+: t.tty ∧ s.trace <+: t.trace

/-- R91 (the spec's own decision 92 D9, log entry 9): with DEBUG a step that performs one of the six
instructions appends one trace record; the unknown opcode, and any step without DEBUG, appends none. -/
def Obligations.TraceGrowsByOneRecordWhenDebug : Prop :=
  ∀ s t : State, step s = .next t →
    t.trace.length = s.trace.length +
      (if s.debug = true ∧ s.fetchByte 0 ∈ definedOpcodes then 1 else 0)

/-- R92, R93 (the spec's own decision 92 D9, log entry 9): the record names CS, IP0, the opcode and the
operand, and its outcome is what the step then does. -/
def Obligations.TraceRecordTellsTheStepsOutcome : Prop :=
  ∀ s t : State, step s = .next t → s.debug = true → s.fetchByte 0 ∈ definedOpcodes →
    ∃ r, t.trace = s.trace ++ [r] ∧ r.cs = s.cs ∧ r.ip0 = s.ip ∧ r.opcode = s.fetchByte 0 ∧
      (s.fetchByte 0 = 0xEB#8 → r.operand = .rel (s.fetchByte 1).toInt ∧ r.outcome = .newIp t.ip) ∧
      (s.fetchByte 0 = 0xCD#8 → r.operand = .byte (s.fetchByte 1) ∧
        ∃ o, r.outcome = .service o t.ip ∧
          ((∃ c, o = .teletype c) ↔ t.tty ≠ s.tty) ∧ ∀ c, o = .teletype c → t.tty = s.tty ++ [c]) ∧
      (s.fetchByte 0 ∈ [0xB0#8, 0xB4#8] →
        r.operand = .byte (s.fetchByte 1) ∧ r.outcome = .load (t.reg .ax) t.ip) ∧
      (s.fetchByte 0 = 0xF4#8 → r.operand = .none ∧ r.outcome = .halt ∧ t.term = some .cleanHalt) ∧
      (s.fetchByte 0 = 0x90#8 → r.operand = .none ∧ r.outcome = .newIp t.ip)

/-- R94: two blocks that differ at most in DEBUG and the trace go on differing at most there, step for
step; so do two loads of one image with DEBUG on and off. -/
def Obligations.TraceDoesNotInterfere : Prop :=
  (∀ (k : Nat) (s s' : State), s.agreeButTrace s' → outcomesAgreeButTrace (s.run? k) (s'.run? k)) ∧
  ∀ (k : Nat) (s t t' : State) (image : List Byte), load image true s = .next t →
    load image false s = .next t' → outcomesAgreeButTrace (t.run? k) (t'.run? k)

/-- R77 (the codes are the spec's own, 92 D6, log entry 10): the status report of each reason. -/
def Obligations.StatusReportsCodeAndWhetherItRan : Prop :=
  ∀ (s : State) (w : Termination),
    (terminate w s).status = some
      { code := match w with
          | .cleanHalt => 1
          | .unknownOpcode _ _ _ => 2
          | .addressOutOfRange _ => 3
          | .imageTooShort _ => 4
          | .invalidSignature _ _ => 5
        ran := match w with
          | .cleanHalt | .unknownOpcode _ _ _ | .addressOutOfRange _ => true
          | .imageTooShort _ | .invalidSignature _ _ => false
        record := w } ∧
    ((terminate w s).run = .halted ↔ w.ran = true) ∧ ((terminate w s).run = .loadFailed ↔ w.ran = false)

/-- R28, R95: a step that writes the termination record is the last one, so it is written once. -/
def Obligations.TerminationIsWrittenOnceAndIsFinal : Prop :=
  ∀ (s t : State) (w : Termination), step s = .next t → s.term = none → t.term = some w →
    t.run = .halted ∧ t.status.map StatusReport.record = some w ∧
      ∀ k : Nat, ∀ u : State, t.run? (k + 1) ≠ .next u

/-! ### Load -/

/-- R99 (the spec's own decision 92 D21, log entry 3): `load` is accepted in `Idle` and only there. -/
def Obligations.LoadIsAcceptedExactlyInIdle : Prop :=
  ∀ (s : State) (image : List Byte) (d : Bool),
    (s.run = .idle → ∃ t, load image d s = .next t) ∧
    (s.run ≠ .idle → load image d s = .refused .loadNotIdle)

/-- R100, R102: an image shorter than 512 bytes fails as too short, whatever its bytes, and stages nothing. -/
def Obligations.ShortImageFailsWhateverItHolds : Prop :=
  ∀ (s : State) (image : List Byte) (d : Bool), s.run = .idle → image.length < 512 →
    ∃ t, load image d s = .next t ∧ t.run = .loadFailed ∧ t.term = some (.imageTooShort image.length) ∧
      ∀ a, Memory.byteAt t.mem a = Memory.byteAt s.mem a

/-- R101: an image long enough without the signature fails. -/
def Obligations.WrongSignatureFails : Prop :=
  ∀ (s : State) (image : List Byte) (d : Bool) (b b' : Byte), s.run = .idle → 512 ≤ image.length →
    image[510]? = some b → image[511]? = some b' → (b ≠ 0x55#8 ∨ b' ≠ 0xAA#8) →
    ∃ t, load image d s = .next t ∧ t.run = .loadFailed ∧ t.term = some (.invalidSignature b b')

/-- R105: a failed load stages nothing, builds no processor state, is reported, is not retried, and the
engine never steps. THE MODEL'S CHOICE: that DEBUG and the registers are as before (DEDUCED, log entry 11), and
the named refusal of a later load (log entry 3). -/
def Obligations.FailedLoadLeavesOnlyItsReport : Prop :=
  ∀ (s : State) (image : List Byte) (d : Bool), s.run = .idle → ¬ validImage image →
    ∃ t w, load image d s = .next t ∧ t.run = .loadFailed ∧ t.term = some w ∧
      (w = .imageTooShort image.length ∨ ∃ b b', w = .invalidSignature b b') ∧
      t.status.map StatusReport.record = some w ∧
      s.Keeps t ∧ t.reg .ax = s.reg .ax ∧ t.ip = s.ip ∧ t.tty = s.tty ∧ t.trace = s.trace ∧
      (∀ t', step t ≠ .next t') ∧
      ∀ (image' : List Byte) (d' : Bool), load image' d' t = .refused .loadNotIdle

/-- R103, R106, R107: a valid image's first 512 bytes stand in the sector, every other byte of memory is
as it was, and the engine is running from 0000:7C00 with all registers and FLAGS zero. -/
def Obligations.ValidLoadStagesTheSectorAndStarts : Prop :=
  ∀ (s : State) (image : List Byte) (d : Bool), s.run = .idle → validImage image →
    ∃ t, load image d s = .next t ∧
      (∀ i, i < 512 → image[i]? = some (Memory.byteAt t.mem (0x7C00 + i))) ∧
      (∀ a, a < 0x7C00 ∨ 0x7E00 ≤ a → Memory.byteAt t.mem a = Memory.byteAt s.mem a) ∧
      (∀ r : Reg, t.reg r = 0x0000#16) ∧ t.cs = 0x0000#16 ∧ t.ip = 0x7C00#16 ∧ t.flags = 0x0000#16 ∧
      t.debug = d ∧ t.tty = [] ∧ t.trace = [] ∧ t.term = none ∧ t.run = .running

/-- R104: bytes of the image from offset 512 on make no difference. -/
def Obligations.TrailingImageBytesAreIgnored : Prop :=
  ∀ (s : State) (image : List Byte) (d : Bool), 512 ≤ image.length →
    load image d s = load (image.take 512) d s

/-- R44, R109 (log entry 1): after a load over a block no buffer was listed for, every byte outside the
sector is its `INIT_MEM` byte, a free value of which nothing is assumed. -/
def Obligations.MemoryOutsideTheSectorIsInitMem : Prop :=
  ∀ (image : List Byte) (d : Bool) (t : State), load image d State.reset = .next t →
    ∀ a, a < 0x7C00 ∨ 0x7E00 ≤ a → Memory.byteAt t.mem a = Config.initMem a

/-- The first step after a valid load performs the instruction at the head of the image (R107, R111). -/
def Obligations.FirstStepPerformsTheImagesFirstInstruction : Prop :=
  ∀ (s t : State) (image : List Byte) (d : Bool) (i : Instr) (rest : List Byte), s.run = .idle →
    validImage image → load image d s = .next t → decode image = .ok (i, rest) →
    step t = exec i (emitTrace i t)

/-! ### Whole runs -/

/-- R15, R18, R23, R29, R39: no run changes BX, CX, DX, SP, BP, SI, DI, CS, FLAGS, DEBUG or memory. -/
def Obligations.NoRunChangesMemoryOrTheInertRegisters : Prop :=
  ∀ (k : Nat) (s t : State), s.run? k = .next t → s.Keeps t ∧ t.mem = s.mem

/-- R97: a jump to itself runs for ever, in `Running`, at the same IP. -/
def Obligations.JumpToItselfNeverEnds : Prop :=
  ∀ (k : Nat) (s : State), s.run = .running → s.fetchByte 0 = 0xEB#8 → s.fetchByte 1 = 0xFE#8 →
    ∃ t, s.run? k = .next t ∧ t.run = .running ∧ t.term = s.term ∧ t.ip = s.ip ∧
      t.reg .ax = s.reg .ax ∧ t.tty = s.tty ∧ s.Keeps t

/-- The block before its load, over any buffer in canonical form, meets the invariant. THE MODEL'S CHOICE: the
registers and DEBUG before a load (log entry 2) and the canonical form (log entry 1). -/
def Obligations.IdleBlockMeetsTheInvariant : Prop :=
  State.reset.Inv ∧ ∀ m : Memory, Memory.wf m = true → State.Inv { State.reset with mem := m }

/-- Every step keeps the invariant. THE MODEL'S CHOICE: the canonical form of memory (log entry 1). The spec's
own decisions: the IP of an unknown opcode (92 D5, log entry 5) and when a step is traced (92 D9, log entry 9). -/
def Obligations.EveryStepKeepsTheInvariant : Prop :=
  ∀ s t : State, s.Inv → step s = .next t → t.Inv

/-- Every load keeps the invariant. THE MODEL'S CHOICE: that a failed load leaves the registers, tty and trace
as they were (DEDUCED, log entry 11) and the canonical form of memory (log entry 1). -/
def Obligations.EveryLoadKeepsTheInvariant : Prop :=
  ∀ (s t : State) (image : List Byte) (d : Bool), s.Inv → load image d s = .next t → t.Inv

/-- Every state a block can reach meets the invariant: its termination report is true, its memory is
canonical, CS, FLAGS and the seven registers are zero, and its instruction address is IP. Of a run this is R15,
R18, R23 and R35. THE MODEL'S CHOICE: the registers in `Idle` (R110 does not define them; log entry 2) and in
`LoadFailed` (DEDUCED, log entry 11), and the canonical form of memory (log entry 1). The spec's own decisions:
the IP of an unknown opcode (92 D5, log entry 5) and when a step is traced (92 D9, log entry 9). -/
def Obligations.EveryReachableStateMeetsTheInvariant : Prop :=
  ∀ s : State, s.Reachable → s.Inv ∧ instrAddr s 0 = s.ip.toNat
end

