-- ==== Sys2Proof/Laws/Memory.lean ====
section
/-! SUPPORT. The laws of memory: a read after a write, and the canonical form, which every operation
keeps. -/

namespace Sys2Proof.Machine

/-- A listed byte after a write. -/
theorem Memory.listed_set (m : Memory) (a a' : Nat) (v : Byte) :
    Memory.listed (Memory.set m a v) a' = if a' = a then some v else Memory.listed m a' := by
  induction m with
  | nil => simp [Memory.set, Memory.listed, eq_comm]
  | cons c m ih =>
    obtain ⟨k, w⟩ := c
    simp only [Memory.set]
    split
    · by_cases h : a' = a
      · simp [Memory.listed, h]
      · simp [Memory.listed, h, Ne.symm h]
    · split
      · subst_vars
        by_cases h : a' = k
        · simp [Memory.listed, h]
        · simp [Memory.listed, h, Ne.symm h]
      · simp only [Memory.listed, ih]
        by_cases hk : k = a'
        · have : a' ≠ a := by omega
          simp [hk, this]
        · simp [hk]

/-- A read after a write: the byte written there, and every other byte as before. -/
theorem Memory.byteAt_set (m : Memory) (a a' : Nat) (v : Byte) :
    Memory.byteAt (Memory.set m a v) a' = if a' = a then v else Memory.byteAt m a' := by
  unfold Memory.byteAt
  rw [Memory.listed_set]
  by_cases h : a' = a <;> simp [h]

@[simp] theorem Memory.byteAt_set_same (m : Memory) (a : Nat) (v : Byte) :
    Memory.byteAt (Memory.set m a v) a = v := by simp [Memory.byteAt_set]

theorem Memory.byteAt_set_other (m : Memory) (a a' : Nat) (v : Byte) (h : a' ≠ a) :
    Memory.byteAt (Memory.set m a v) a' = Memory.byteAt m a' := by simp [Memory.byteAt_set, h]

/-- The canonical form with its lower bound moved down. -/
theorem Memory.risingFrom_mono {lo lo' : Nat} (h : lo' ≤ lo) (m : Memory)
    (hm : Memory.risingFrom lo m = true) : Memory.risingFrom lo' m = true := by
  cases m with
  | nil => rfl
  | cons c m =>
    simp only [Memory.risingFrom, Bool.and_eq_true, decide_eq_true_eq] at hm ⊢
    exact ⟨⟨by omega, hm.1.2⟩, hm.2⟩

theorem Memory.risingFrom_set {lo a : Nat} (v : Byte) (m : Memory)
    (hm : Memory.risingFrom lo m = true) (hlo : lo ≤ a) (ha : a < Config.memSize) :
    Memory.risingFrom lo (Memory.set m a v) = true := by
  induction m generalizing lo with
  | nil => simp [Memory.set, Memory.risingFrom, hlo, ha]
  | cons c m ih =>
    obtain ⟨k, w⟩ := c
    simp only [Memory.risingFrom, Bool.and_eq_true, decide_eq_true_eq] at hm
    simp only [Memory.set]
    split
    · simp only [Memory.risingFrom, Bool.and_eq_true, decide_eq_true_eq]
      exact ⟨⟨hlo, ha⟩, ⟨by omega, hm.1.2⟩, hm.2⟩
    · split
      · subst_vars
        simp only [Memory.risingFrom, Bool.and_eq_true, decide_eq_true_eq]
        exact ⟨⟨hlo, ha⟩, hm.2⟩
      · simp only [Memory.risingFrom, Bool.and_eq_true, decide_eq_true_eq]
        exact ⟨hm.1, ih hm.2 (by omega)⟩

/-- A write keeps the canonical form. -/
theorem Memory.wf_set (m : Memory) (a : Nat) (v : Byte) (hm : Memory.wf m = true)
    (ha : a < Config.memSize) : Memory.wf (Memory.set m a v) = true :=
  Memory.risingFrom_set v m hm (Nat.zero_le a) ha

theorem State.reset_mem_wf : Memory.wf State.reset.mem = true := rfl

/-- Everything `memRead` can answer. -/
theorem memRead_cases (size : Nat) (m : Memory) (a : Nat) :
    (a < size ∧ memRead size m a = .ok (Memory.byteAt m a)) ∨ (size ≤ a ∧ memRead size m a = .error a) := by
  unfold memRead
  by_cases h : a < size
  · exact .inl ⟨h, by simp [h]⟩
  · exact .inr ⟨by omega, by simp [h]⟩

/-- A read inside the memory. -/
theorem memRead_of_lt {size a : Nat} (m : Memory) (h : a < size) :
    memRead size m a = .ok (Memory.byteAt m a) := by simp [memRead, h]

/-- A write inside the memory. -/
theorem memWrite_of_lt {size a : Nat} (m : Memory) (v : Byte) (h : a < size) :
    memWrite size m a v = .ok (Memory.set m a v) := by simp [memWrite, h]

/-- Everything `stage` does when its bytes fit: it answers a memory that holds the bytes from `addr` on
and every other byte as before, in canonical form where the old one was. -/
theorem stage_spec (bs : List Byte) (addr : Nat) (m : Memory)
    (hfit : addr + bs.length ≤ Config.memSize) :
    ∃ m', stage Config.memSize addr bs m = .ok m' ∧
      (∀ a, Memory.byteAt m' a =
        if addr ≤ a ∧ a < addr + bs.length then bs.getD (a - addr) 0#8 else Memory.byteAt m a) ∧
      (Memory.wf m = true → Memory.wf m' = true) := by
  induction bs generalizing addr m with
  | nil => exact ⟨m, rfl, fun a => by simp, id⟩
  | cons b bs ih =>
    simp only [List.length_cons] at hfit
    have ha : addr < Config.memSize := by omega
    obtain ⟨m', h1, h2, h3⟩ := ih (addr + 1) (Memory.set m addr b) (by omega)
    refine ⟨m', by simp [stage, memWrite_of_lt m b ha, h1], fun a => ?_, fun hm => h3 (Memory.wf_set m addr b hm ha)⟩
    rw [h2 a, Memory.byteAt_set]
    by_cases hlt : a = addr
    · subst hlt; simp
    · by_cases hin : addr + 1 ≤ a ∧ a < addr + 1 + bs.length
      · have h' : addr ≤ a ∧ a < addr + (bs.length + 1) := by omega
        obtain ⟨d, hd⟩ : ∃ d, a = addr + 1 + d := ⟨a - (addr + 1), by omega⟩
        have e1 : a - (addr + 1) = d := by omega
        have e2 : a - addr = d + 1 := by omega
        simp only [hin, h', e1, e2, List.length_cons, and_self, if_true, List.getD_cons_succ]
      · have h' : ¬ (addr ≤ a ∧ a < addr + (bs.length + 1)) := by omega
        rw [if_neg hin, if_neg hlt, List.length_cons, if_neg h']

end Sys2Proof.Machine
end

