-- ==== Sys2Proof/Laws/Boot.lean ====
section
/-! SUPPORT. The Boot Loader, case by case. -/

namespace Sys2Proof.Machine

/-- Everything the validation can answer (R100 to R102). -/
theorem validateImage_cases (image : List Byte) :
    (image.length < 512 ∧ validateImage image = some (.imageTooShort image.length)) ∨
    (512 ≤ image.length ∧ ¬ validImage image ∧
      validateImage image = some (.invalidSignature (image.getD 510 0#8) (image.getD 511 0#8))) ∨
    (validImage image ∧ validateImage image = none) := by
  have e : validateImage image =
      if image.length < 512 then some (.imageTooShort image.length)
      else if image.getD 510 0#8 ≠ 0x55#8 ∨ image.getD 511 0#8 ≠ 0xAA#8 then
        some (.invalidSignature (image.getD 510 0#8) (image.getD 511 0#8))
      else none := rfl
  by_cases hlen : image.length < 512
  · exact .inl ⟨hlen, by rw [e, if_pos hlen]⟩
  · by_cases hsig : image.getD 510 0#8 ≠ 0x55#8 ∨ image.getD 511 0#8 ≠ 0xAA#8
    · refine .inr (.inl ⟨by omega, fun h => ?_, by rw [e, if_neg hlen, if_pos hsig]⟩)
      exact hsig.elim (fun h0 => h0 h.2.1) fun h1 => h1 h.2.2
    · rw [not_or, not_not, not_not] at hsig
      exact .inr (.inr ⟨⟨by omega, hsig⟩, by rw [e, if_neg hlen, if_neg (by simp only [hsig]; decide)]⟩)

/-- `load` in `Idle`, case by case: the validation's reason, or the start of a run over the staged memory. -/
theorem load_idle_cases (image : List Byte) (debug : Bool) (s : State) (h : s.run = .idle) :
    (∃ w, validateImage image = some w ∧ load image debug s = .next (terminate w s)) ∨
    (validateImage image = none ∧ ∃ m,
      stage Config.memSize Config.loadAddr (image.take Config.sectorSize) s.mem = .ok m ∧
      load image debug s = .next (startState m debug)) := by
  unfold load
  rw [h]
  cases hv : validateImage image with
  | some w => exact .inl ⟨w, rfl, rfl⟩
  | none =>
    have hlen : (image.take Config.sectorSize).length ≤ 512 := by simp [Config.sectorSize]
    obtain ⟨m, hm, -⟩ := stage_spec (image.take Config.sectorSize) Config.loadAddr s.mem (by
      unfold Config.memSize Config.loadAddr; omega)
    exact .inr ⟨rfl, m, hm, by simp [hm]⟩

end Sys2Proof.Machine
end

