-- ==== Sys2Proof/Laws/State.lean ====
section
/-! SUPPORT. What each update of the state writes and what it leaves: one lemma per field per update. -/

namespace Sys2Proof.Machine

/-! ### setIp -/

@[simp] theorem setIp_ax (s : State) (v : Word) : (s.setIp v).ax = s.ax := rfl
@[simp] theorem setIp_bx (s : State) (v : Word) : (s.setIp v).bx = s.bx := rfl
@[simp] theorem setIp_cx (s : State) (v : Word) : (s.setIp v).cx = s.cx := rfl
@[simp] theorem setIp_dx (s : State) (v : Word) : (s.setIp v).dx = s.dx := rfl
@[simp] theorem setIp_sp (s : State) (v : Word) : (s.setIp v).sp = s.sp := rfl
@[simp] theorem setIp_bp (s : State) (v : Word) : (s.setIp v).bp = s.bp := rfl
@[simp] theorem setIp_si (s : State) (v : Word) : (s.setIp v).si = s.si := rfl
@[simp] theorem setIp_di (s : State) (v : Word) : (s.setIp v).di = s.di := rfl
@[simp] theorem setIp_cs (s : State) (v : Word) : (s.setIp v).cs = s.cs := rfl
@[simp] theorem setIp_ip (s : State) (v : Word) : (s.setIp v).ip = v := rfl
@[simp] theorem setIp_flags (s : State) (v : Word) : (s.setIp v).flags = s.flags := rfl
@[simp] theorem setIp_mem (s : State) (v : Word) : (s.setIp v).mem = s.mem := rfl
@[simp] theorem setIp_run (s : State) (v : Word) : (s.setIp v).run = s.run := rfl
@[simp] theorem setIp_term (s : State) (v : Word) : (s.setIp v).term = s.term := rfl
@[simp] theorem setIp_debug (s : State) (v : Word) : (s.setIp v).debug = s.debug := rfl
@[simp] theorem setIp_tty (s : State) (v : Word) : (s.setIp v).tty = s.tty := rfl
@[simp] theorem setIp_trace (s : State) (v : Word) : (s.setIp v).trace = s.trace := rfl

/-! ### advance -/

@[simp] theorem advance_ax (s : State) (n : Nat) : (s.advance n).ax = s.ax := rfl
@[simp] theorem advance_bx (s : State) (n : Nat) : (s.advance n).bx = s.bx := rfl
@[simp] theorem advance_cx (s : State) (n : Nat) : (s.advance n).cx = s.cx := rfl
@[simp] theorem advance_dx (s : State) (n : Nat) : (s.advance n).dx = s.dx := rfl
@[simp] theorem advance_sp (s : State) (n : Nat) : (s.advance n).sp = s.sp := rfl
@[simp] theorem advance_bp (s : State) (n : Nat) : (s.advance n).bp = s.bp := rfl
@[simp] theorem advance_si (s : State) (n : Nat) : (s.advance n).si = s.si := rfl
@[simp] theorem advance_di (s : State) (n : Nat) : (s.advance n).di = s.di := rfl
@[simp] theorem advance_cs (s : State) (n : Nat) : (s.advance n).cs = s.cs := rfl
@[simp] theorem advance_ip (s : State) (n : Nat) : (s.advance n).ip = s.ip + BitVec.ofNat 16 n := rfl
@[simp] theorem advance_flags (s : State) (n : Nat) : (s.advance n).flags = s.flags := rfl
@[simp] theorem advance_mem (s : State) (n : Nat) : (s.advance n).mem = s.mem := rfl
@[simp] theorem advance_run (s : State) (n : Nat) : (s.advance n).run = s.run := rfl
@[simp] theorem advance_term (s : State) (n : Nat) : (s.advance n).term = s.term := rfl
@[simp] theorem advance_debug (s : State) (n : Nat) : (s.advance n).debug = s.debug := rfl
@[simp] theorem advance_tty (s : State) (n : Nat) : (s.advance n).tty = s.tty := rfl
@[simp] theorem advance_trace (s : State) (n : Nat) : (s.advance n).trace = s.trace := rfl

/-! ### emitTty -/

@[simp] theorem emitTty_ax (s : State) (b : Byte) : (s.emitTty b).ax = s.ax := rfl
@[simp] theorem emitTty_bx (s : State) (b : Byte) : (s.emitTty b).bx = s.bx := rfl
@[simp] theorem emitTty_cx (s : State) (b : Byte) : (s.emitTty b).cx = s.cx := rfl
@[simp] theorem emitTty_dx (s : State) (b : Byte) : (s.emitTty b).dx = s.dx := rfl
@[simp] theorem emitTty_sp (s : State) (b : Byte) : (s.emitTty b).sp = s.sp := rfl
@[simp] theorem emitTty_bp (s : State) (b : Byte) : (s.emitTty b).bp = s.bp := rfl
@[simp] theorem emitTty_si (s : State) (b : Byte) : (s.emitTty b).si = s.si := rfl
@[simp] theorem emitTty_di (s : State) (b : Byte) : (s.emitTty b).di = s.di := rfl
@[simp] theorem emitTty_cs (s : State) (b : Byte) : (s.emitTty b).cs = s.cs := rfl
@[simp] theorem emitTty_ip (s : State) (b : Byte) : (s.emitTty b).ip = s.ip := rfl
@[simp] theorem emitTty_flags (s : State) (b : Byte) : (s.emitTty b).flags = s.flags := rfl
@[simp] theorem emitTty_mem (s : State) (b : Byte) : (s.emitTty b).mem = s.mem := rfl
@[simp] theorem emitTty_run (s : State) (b : Byte) : (s.emitTty b).run = s.run := rfl
@[simp] theorem emitTty_term (s : State) (b : Byte) : (s.emitTty b).term = s.term := rfl
@[simp] theorem emitTty_debug (s : State) (b : Byte) : (s.emitTty b).debug = s.debug := rfl
@[simp] theorem emitTty_tty (s : State) (b : Byte) : (s.emitTty b).tty = s.tty ++ [b] := rfl
@[simp] theorem emitTty_trace (s : State) (b : Byte) : (s.emitTty b).trace = s.trace := rfl

/-! ### terminate -/

@[simp] theorem terminate_ax (w : Termination) (s : State) : (terminate w s).ax = s.ax := rfl
@[simp] theorem terminate_bx (w : Termination) (s : State) : (terminate w s).bx = s.bx := rfl
@[simp] theorem terminate_cx (w : Termination) (s : State) : (terminate w s).cx = s.cx := rfl
@[simp] theorem terminate_dx (w : Termination) (s : State) : (terminate w s).dx = s.dx := rfl
@[simp] theorem terminate_sp (w : Termination) (s : State) : (terminate w s).sp = s.sp := rfl
@[simp] theorem terminate_bp (w : Termination) (s : State) : (terminate w s).bp = s.bp := rfl
@[simp] theorem terminate_si (w : Termination) (s : State) : (terminate w s).si = s.si := rfl
@[simp] theorem terminate_di (w : Termination) (s : State) : (terminate w s).di = s.di := rfl
@[simp] theorem terminate_cs (w : Termination) (s : State) : (terminate w s).cs = s.cs := rfl
@[simp] theorem terminate_ip (w : Termination) (s : State) : (terminate w s).ip = s.ip := rfl
@[simp] theorem terminate_flags (w : Termination) (s : State) : (terminate w s).flags = s.flags := rfl
@[simp] theorem terminate_mem (w : Termination) (s : State) : (terminate w s).mem = s.mem := rfl
@[simp] theorem terminate_run (w : Termination) (s : State) : (terminate w s).run = w.runAfter := rfl
@[simp] theorem terminate_term (w : Termination) (s : State) : (terminate w s).term = some w := rfl
@[simp] theorem terminate_debug (w : Termination) (s : State) : (terminate w s).debug = s.debug := rfl
@[simp] theorem terminate_tty (w : Termination) (s : State) : (terminate w s).tty = s.tty := rfl
@[simp] theorem terminate_trace (w : Termination) (s : State) : (terminate w s).trace = s.trace := rfl

/-! ### setReg -/

@[simp] theorem setReg_cs (s : State) (r : Reg) (v : Word) : (s.setReg r v).cs = s.cs := by cases r <;> rfl
@[simp] theorem setReg_ip (s : State) (r : Reg) (v : Word) : (s.setReg r v).ip = s.ip := by cases r <;> rfl
@[simp] theorem setReg_flags (s : State) (r : Reg) (v : Word) : (s.setReg r v).flags = s.flags := by cases r <;> rfl
@[simp] theorem setReg_mem (s : State) (r : Reg) (v : Word) : (s.setReg r v).mem = s.mem := by cases r <;> rfl
@[simp] theorem setReg_run (s : State) (r : Reg) (v : Word) : (s.setReg r v).run = s.run := by cases r <;> rfl
@[simp] theorem setReg_term (s : State) (r : Reg) (v : Word) : (s.setReg r v).term = s.term := by cases r <;> rfl
@[simp] theorem setReg_debug (s : State) (r : Reg) (v : Word) : (s.setReg r v).debug = s.debug := by cases r <;> rfl
@[simp] theorem setReg_tty (s : State) (r : Reg) (v : Word) : (s.setReg r v).tty = s.tty := by cases r <;> rfl
@[simp] theorem setReg_trace (s : State) (r : Reg) (v : Word) : (s.setReg r v).trace = s.trace := by cases r <;> rfl

@[simp] theorem reg_setReg_same (s : State) (r : Reg) (v : Word) : (s.setReg r v).reg r = v := by
  cases r <;> rfl

theorem reg_setReg_other (s : State) (r r' : Reg) (v : Word) (h : r' ≠ r) :
    (s.setReg r v).reg r' = s.reg r' := by
  cases r <;> cases r' <;> first | rfl | exact absurd rfl h

/-! ### setAl and setAh -/

@[simp] theorem setAl_ax (s : State) (v : Byte) : (s.setAl v).ax = s.axWithAl v := rfl
@[simp] theorem setAl_bx (s : State) (v : Byte) : (s.setAl v).bx = s.bx := rfl
@[simp] theorem setAl_cx (s : State) (v : Byte) : (s.setAl v).cx = s.cx := rfl
@[simp] theorem setAl_dx (s : State) (v : Byte) : (s.setAl v).dx = s.dx := rfl
@[simp] theorem setAl_sp (s : State) (v : Byte) : (s.setAl v).sp = s.sp := rfl
@[simp] theorem setAl_bp (s : State) (v : Byte) : (s.setAl v).bp = s.bp := rfl
@[simp] theorem setAl_si (s : State) (v : Byte) : (s.setAl v).si = s.si := rfl
@[simp] theorem setAl_di (s : State) (v : Byte) : (s.setAl v).di = s.di := rfl
@[simp] theorem setAl_cs (s : State) (v : Byte) : (s.setAl v).cs = s.cs := rfl
@[simp] theorem setAl_ip (s : State) (v : Byte) : (s.setAl v).ip = s.ip := rfl
@[simp] theorem setAl_flags (s : State) (v : Byte) : (s.setAl v).flags = s.flags := rfl
@[simp] theorem setAl_mem (s : State) (v : Byte) : (s.setAl v).mem = s.mem := rfl
@[simp] theorem setAl_run (s : State) (v : Byte) : (s.setAl v).run = s.run := rfl
@[simp] theorem setAl_term (s : State) (v : Byte) : (s.setAl v).term = s.term := rfl
@[simp] theorem setAl_debug (s : State) (v : Byte) : (s.setAl v).debug = s.debug := rfl
@[simp] theorem setAl_tty (s : State) (v : Byte) : (s.setAl v).tty = s.tty := rfl
@[simp] theorem setAl_trace (s : State) (v : Byte) : (s.setAl v).trace = s.trace := rfl

@[simp] theorem setAh_ax (s : State) (v : Byte) : (s.setAh v).ax = s.axWithAh v := rfl
@[simp] theorem setAh_bx (s : State) (v : Byte) : (s.setAh v).bx = s.bx := rfl
@[simp] theorem setAh_cx (s : State) (v : Byte) : (s.setAh v).cx = s.cx := rfl
@[simp] theorem setAh_dx (s : State) (v : Byte) : (s.setAh v).dx = s.dx := rfl
@[simp] theorem setAh_sp (s : State) (v : Byte) : (s.setAh v).sp = s.sp := rfl
@[simp] theorem setAh_bp (s : State) (v : Byte) : (s.setAh v).bp = s.bp := rfl
@[simp] theorem setAh_si (s : State) (v : Byte) : (s.setAh v).si = s.si := rfl
@[simp] theorem setAh_di (s : State) (v : Byte) : (s.setAh v).di = s.di := rfl
@[simp] theorem setAh_cs (s : State) (v : Byte) : (s.setAh v).cs = s.cs := rfl
@[simp] theorem setAh_ip (s : State) (v : Byte) : (s.setAh v).ip = s.ip := rfl
@[simp] theorem setAh_flags (s : State) (v : Byte) : (s.setAh v).flags = s.flags := rfl
@[simp] theorem setAh_mem (s : State) (v : Byte) : (s.setAh v).mem = s.mem := rfl
@[simp] theorem setAh_run (s : State) (v : Byte) : (s.setAh v).run = s.run := rfl
@[simp] theorem setAh_term (s : State) (v : Byte) : (s.setAh v).term = s.term := rfl
@[simp] theorem setAh_debug (s : State) (v : Byte) : (s.setAh v).debug = s.debug := rfl
@[simp] theorem setAh_tty (s : State) (v : Byte) : (s.setAh v).tty = s.tty := rfl
@[simp] theorem setAh_trace (s : State) (v : Byte) : (s.setAh v).trace = s.trace := rfl

/-! ### emitTrace -/

@[simp] theorem emitTrace_ax (i : Instr) (s : State) : (emitTrace i s).ax = s.ax := by
  unfold emitTrace; split <;> rfl
@[simp] theorem emitTrace_bx (i : Instr) (s : State) : (emitTrace i s).bx = s.bx := by
  unfold emitTrace; split <;> rfl
@[simp] theorem emitTrace_cx (i : Instr) (s : State) : (emitTrace i s).cx = s.cx := by
  unfold emitTrace; split <;> rfl
@[simp] theorem emitTrace_dx (i : Instr) (s : State) : (emitTrace i s).dx = s.dx := by
  unfold emitTrace; split <;> rfl
@[simp] theorem emitTrace_sp (i : Instr) (s : State) : (emitTrace i s).sp = s.sp := by
  unfold emitTrace; split <;> rfl
@[simp] theorem emitTrace_bp (i : Instr) (s : State) : (emitTrace i s).bp = s.bp := by
  unfold emitTrace; split <;> rfl
@[simp] theorem emitTrace_si (i : Instr) (s : State) : (emitTrace i s).si = s.si := by
  unfold emitTrace; split <;> rfl
@[simp] theorem emitTrace_di (i : Instr) (s : State) : (emitTrace i s).di = s.di := by
  unfold emitTrace; split <;> rfl
@[simp] theorem emitTrace_cs (i : Instr) (s : State) : (emitTrace i s).cs = s.cs := by
  unfold emitTrace; split <;> rfl
@[simp] theorem emitTrace_ip (i : Instr) (s : State) : (emitTrace i s).ip = s.ip := by
  unfold emitTrace; split <;> rfl
@[simp] theorem emitTrace_flags (i : Instr) (s : State) : (emitTrace i s).flags = s.flags := by
  unfold emitTrace; split <;> rfl
@[simp] theorem emitTrace_mem (i : Instr) (s : State) : (emitTrace i s).mem = s.mem := by
  unfold emitTrace; split <;> rfl
@[simp] theorem emitTrace_run (i : Instr) (s : State) : (emitTrace i s).run = s.run := by
  unfold emitTrace; split <;> rfl
@[simp] theorem emitTrace_term (i : Instr) (s : State) : (emitTrace i s).term = s.term := by
  unfold emitTrace; split <;> rfl
@[simp] theorem emitTrace_debug (i : Instr) (s : State) : (emitTrace i s).debug = s.debug := by
  unfold emitTrace; split <;> rfl
@[simp] theorem emitTrace_tty (i : Instr) (s : State) : (emitTrace i s).tty = s.tty := by
  unfold emitTrace; split <;> rfl

theorem emitTrace_trace (i : Instr) (s : State) :
    (emitTrace i s).trace = s.trace ++ (if s.debug then (traceRecord i s).toList else []) := by
  unfold emitTrace; split <;> simp

/-! ### Reading a register after an update -/

@[simp] theorem reg_setIp (s : State) (v : Word) (r : Reg) : (s.setIp v).reg r = s.reg r := by cases r <;> rfl
@[simp] theorem reg_advance (s : State) (n : Nat) (r : Reg) : (s.advance n).reg r = s.reg r := by cases r <;> rfl
@[simp] theorem reg_emitTty (s : State) (b : Byte) (r : Reg) : (s.emitTty b).reg r = s.reg r := by cases r <;> rfl
@[simp] theorem reg_terminate (w : Termination) (s : State) (r : Reg) : (terminate w s).reg r = s.reg r := by cases r <;> rfl
@[simp] theorem reg_emitTrace (i : Instr) (s : State) (r : Reg) : (emitTrace i s).reg r = s.reg r := by
  unfold emitTrace; split <;> cases r <;> rfl
@[simp] theorem reg_setAl_ax (s : State) (v : Byte) : (s.setAl v).reg .ax = s.axWithAl v := rfl
@[simp] theorem reg_setAh_ax (s : State) (v : Byte) : (s.setAh v).reg .ax = s.axWithAh v := rfl

theorem reg_setAl_other (s : State) (v : Byte) (r : Reg) (h : r ≠ .ax) : (s.setAl v).reg r = s.reg r :=
  reg_setReg_other s .ax r _ h

theorem reg_setAh_other (s : State) (v : Byte) (r : Reg) (h : r ≠ .ax) : (s.setAh v).reg r = s.reg r :=
  reg_setReg_other s .ax r _ h

/-! ### AL and AH -/

@[simp] theorem al_emitTrace (i : Instr) (s : State) : (emitTrace i s).al = s.al := by simp [State.al]
@[simp] theorem ah_emitTrace (i : Instr) (s : State) : (emitTrace i s).ah = s.ah := by simp [State.ah]
@[simp] theorem al_advance (s : State) (n : Nat) : (s.advance n).al = s.al := rfl
@[simp] theorem ah_advance (s : State) (n : Nat) : (s.advance n).ah = s.ah := rfl

end Sys2Proof.Machine
end

