-- ==== Sys2Proof/Laws/Exec.lean ====
section
/-! SUPPORT. One lemma for each meaning and for each part of the step, which later proofs cite instead of
unfolding. -/

namespace Sys2Proof.Machine

/-! ### The meanings: the state each one answers -/

theorem exec_jmpShort (rel8 : Byte) (s : State) :
    exec (.jmpShort rel8) s = .next (s.setIp (jumpTarget s.ip rel8)) := rfl

theorem exec_intImm8 (n : Byte) (s : State) :
    exec (.intImm8 n) s = .next ((service n s).advance 2) := rfl

theorem exec_movAl (imm8 : Byte) (s : State) :
    exec (.movAl imm8) s = .next ((s.setAl imm8).advance 2) := rfl

theorem exec_movAh (imm8 : Byte) (s : State) :
    exec (.movAh imm8) s = .next ((s.setAh imm8).advance 2) := rfl

theorem exec_hlt (s : State) : exec .hlt s = .next (terminate .cleanHalt s) := rfl

theorem exec_nop (s : State) : exec .nop s = .next (s.advance 1) := rfl

theorem exec_unknownOpcode (b : Byte) (s : State) :
    exec (.unknownOpcode b) s = .next (terminate (.unknownOpcode b s.cs s.ip) s) := rfl

/-- Everything a service can do: append AL to `tty`, or nothing (R64). -/
theorem service_cases (n : Byte) (s : State) :
    (n = Config.intVideo ∧ s.ah = Config.fnTeletype ∧
      serviceOutcome n s.ah s.al = .teletype s.al ∧ service n s = s.emitTty s.al) ∨
    (n = Config.intVideo ∧ s.ah ≠ Config.fnTeletype ∧
      serviceOutcome n s.ah s.al = .unhandledSubfunction s.ah ∧ service n s = s) ∨
    (n ≠ Config.intVideo ∧ serviceOutcome n s.ah s.al = .unhandledInterrupt n ∧ service n s = s) := by
  by_cases hn : n = Config.intVideo
  · by_cases ha : s.ah = Config.fnTeletype
    · exact .inl ⟨hn, ha, by simp [serviceOutcome, hn, ha], by simp [service, serviceOutcome, hn, ha]⟩
    · exact .inr (.inl ⟨hn, ha, by simp [serviceOutcome, hn, ha], by simp [service, serviceOutcome, hn, ha]⟩)
  · exact .inr (.inr ⟨hn, by simp [serviceOutcome, hn], by simp [service, serviceOutcome, hn]⟩)

/-! ### Fetch and step -/

theorem instrAddr_lt (s : State) (k : Nat) : instrAddr s k < Config.memSize :=
  (phys s.cs s.ip + BitVec.ofNat 20 k).isLt

/-- The instruction a running engine performs next. -/
def nextInstr (s : State) : Instr :=
  (decodeOpcode (s.fetchByte 0)).toInstr
    (if (decodeOpcode (s.fetchByte 0)).hasOperand then s.fetchByte 1 else 0#8)

/-- On this hardware the access check never fails, so a fetch always gives an instruction. -/
theorem fetch_memSize (s : State) : fetch Config.memSize s = .ok (nextInstr s) := by
  unfold fetch nextInstr State.fetchByte
  rw [memRead_of_lt _ (instrAddr_lt s 0), memRead_of_lt _ (instrAddr_lt s 1)]
  dsimp only
  split <;> simp_all

/-- A running engine's step: the trace record, then the instruction at CS:IP. -/
theorem step_running (s : State) (h : s.run = .running) :
    step s = exec (nextInstr s) (emitTrace (nextInstr s) s) := by
  simp [step, engineStep, h, fetch_memSize]

/-- The next instruction, where the opcode byte is known. -/
theorem nextInstr_of_opcode {s : State} {b : Byte} (h : s.fetchByte 0 = b) :
    nextInstr s = (decodeOpcode b).toInstr (if (decodeOpcode b).hasOperand then s.fetchByte 1 else 0#8) := by
  rw [nextInstr, h]

/-- The next instruction, where the opcode byte is none of the six. -/
theorem nextInstr_of_unknown {s : State} (h : s.fetchByte 0 ∉ definedOpcodes) :
    nextInstr s = .unknownOpcode (s.fetchByte 0) := by
  simp [definedOpcodes] at h
  simp [nextInstr, decodeOpcode, h, Opcode.toInstr, Opcode.hasOperand]

/-- An unknown opcode is not traced (R91). -/
@[simp] theorem emitTrace_unknownOpcode (b : Byte) (s : State) : emitTrace (.unknownOpcode b) s = s := by
  simp [emitTrace, traceRecord, traceOutcome]

/-- A step gives a next state only when the engine is running. -/
theorem step_next_running {s t : State} (h : step s = .next t) : s.run = .running := by
  revert h
  unfold step engineStep
  cases s.run <;> simp

/-- Everything a step that gives a next state has done: the trace record and the instruction at CS:IP. -/
theorem step_next {s t : State} (h : step s = .next t) :
    s.run = .running ∧ exec (nextInstr s) (emitTrace (nextInstr s) s) = .next t :=
  ⟨step_next_running h, by rw [← step_running s (step_next_running h)]; exact h⟩

/-- The opcode byte of a decoded instruction is the byte it was decoded from. -/
theorem opcodeByte_toInstr (b o : Byte) : opcodeByte ((decodeOpcode b).toInstr o) = b := by
  unfold decodeOpcode
  repeat' split
  all_goals simp_all [Opcode.toInstr, opcodeByte]

end Sys2Proof.Machine
end

