-- ==== Sys2Proof/Laws/Operands.lean ====
section
/-! SUPPORT. The laws of the operand forms: the two bytes of a word, and the relative target as exact
integer arithmetic narrowed once. -/

namespace Sys2Proof.Machine

theorem toNat_joinBytes (hi lo : Byte) : (joinBytes hi lo).toNat = hi.toNat * 256 + lo.toNat := by
  have h1 := hi.isLt
  have h2 := lo.isLt
  rw [joinBytes, BitVec.toNat_or, BitVec.toNat_shiftLeft, BitVec.toNat_setWidth, BitVec.toNat_setWidth,
    Nat.mod_eq_of_lt (by omega : hi.toNat < 2 ^ 16), Nat.mod_eq_of_lt (by omega : lo.toNat < 2 ^ 16),
    Nat.shiftLeft_eq, Nat.mod_eq_of_lt (by omega), ← Nat.shiftLeft_eq,
    ← Nat.shiftLeft_add_eq_or_of_lt (by omega : lo.toNat < 2 ^ 8), Nat.shiftLeft_eq]

@[simp] theorem low_joinBytes (hi lo : Byte) : (joinBytes hi lo).extractLsb' 0 8 = lo := by
  apply BitVec.eq_of_toNat_eq
  have := lo.isLt
  rw [BitVec.extractLsb'_toNat, toNat_joinBytes, Nat.shiftRight_zero]
  omega

@[simp] theorem high_joinBytes (hi lo : Byte) : (joinBytes hi lo).extractLsb' 8 8 = hi := by
  apply BitVec.eq_of_toNat_eq
  have := lo.isLt
  have := hi.isLt
  rw [BitVec.extractLsb'_toNat, toNat_joinBytes, Nat.shiftRight_eq_div_pow]
  omega

theorem toNat_al (s : State) : s.al.toNat = (s.reg .ax).toNat % 256 := by
  simp [State.al, BitVec.extractLsb'_toNat]

theorem toNat_ah (s : State) : s.ah.toNat = (s.reg .ax).toNat / 256 := by
  have := (s.reg .ax).isLt
  rw [State.ah, BitVec.extractLsb'_toNat, Nat.shiftRight_eq_div_pow]
  omega

/-- The jump's target, computed exactly and narrowed once. -/
theorem jumpTarget_eq_ofInt (ip0 : Word) (rel8 : Byte) :
    jumpTarget ip0 rel8 = BitVec.ofInt 16 ((ip0.toNat : Int) + 2 + rel8.toInt) := by
  have h : relOffset rel8 = BitVec.ofInt 16 rel8.toInt := rfl
  rw [jumpTarget, h, BitVec.ofInt_add, BitVec.ofInt_add]
  congr 2
  simp

end Sys2Proof.Machine
end

