-- ==== Sys2Proof/Laws/PerInstr.lean ====
section
/-! SUPPORT. Statements about every instruction as syntax, one lemma per constructor. -/

namespace Sys2Proof.Laws.EncodedBytes

/-- An instruction is encoded in one byte or two: the opcode byte, then the operand byte if there is one
(R51). -/
def Statement (i : Instr) : Prop :=
  1 ≤ (encode i).length ∧ (encode i).length ≤ 2 ∧ (encode i).head? = some (opcodeByte i) ∧
    (encode i)[1]? = operandByte i

theorem jmpShort (rel8 : Byte) : Statement (.jmpShort rel8) := by
  simp [Statement, encode, operandByte]

theorem intImm8 (n : Byte) : Statement (.intImm8 n) := by
  simp [Statement, encode, operandByte]

theorem movAl (imm8 : Byte) : Statement (.movAl imm8) := by
  simp [Statement, encode, operandByte]

theorem movAh (imm8 : Byte) : Statement (.movAh imm8) := by
  simp [Statement, encode, operandByte]

theorem hlt : Statement .hlt := by
  simp [Statement, encode, operandByte]

theorem nop : Statement .nop := by
  simp [Statement, encode, operandByte]

theorem unknownOpcode (opcode : Byte) : Statement (.unknownOpcode opcode) := by
  simp [Statement, encode, operandByte]

end Sys2Proof.Laws.EncodedBytes
end

