-- ==== Sys2Proof/Laws/Run.lean ====
section
/-! SUPPORT. Runs: one step unfolded, and the induction over runs packaged once. -/

namespace Sys2Proof.Machine

@[simp] theorem run?_zero (s : State) : s.run? 0 = .next s := rfl

theorem run?_succ_of_next {s t : State} (k : Nat) (h : step s = .next t) : s.run? (k + 1) = t.run? k := by
  simp [State.run?, Host.Core.run, Sys2Proof.core, h]

theorem run?_succ_of_fault {s : State} {r : Fault} (k : Nat) (h : step s = .fault r) :
    s.run? (k + 1) = .fault r := by
  simp [State.run?, Host.Core.run, Sys2Proof.core, h]

theorem run?_succ_of_refused {s : State} {r : Refusal} (k : Nat) (h : step s = .refused r) :
    s.run? (k + 1) = .refused r := by
  simp [State.run?, Host.Core.run, Sys2Proof.core, h]

/-- A reflexive and transitive relation that holds across every step holds across every run. -/
theorem run?_relates (P : State → State → Prop) (refl : ∀ s, P s s)
    (trans : ∀ a b c, P a b → P b c → P a c) (one : ∀ s t, step s = .next t → P s t) (k : Nat) :
    ∀ s t, s.run? k = .next t → P s t := by
  induction k with
  | zero => intro s t h; cases h; exact refl s
  | succ k ih =>
    intro s t h
    cases hs : step s with
    | next u => rw [run?_succ_of_next k hs] at h; exact trans s u t (one s u hs) (ih u t h)
    | fault r => rw [run?_succ_of_fault k hs] at h; cases h
    | refused r => rw [run?_succ_of_refused k hs] at h; cases h

end Sys2Proof.Machine
end

