-- ==== Sys2Proof/Tests/Slice0.lean ====
section
/-! SUPPORT. Small tests, their expected results taken from 95_test_vectors.md and the encodings of
30_encoding.md, and a witness for the hypotheses of each statement that has some. -/

namespace Sys2Proof.Tests

open Sys2Proof.Machine

/-- A running state with the given AX, IP, DEBUG and listed bytes; the rest as at the start of a run. -/
def running (ax ip : Word) (debug : Bool) (m : Memory) : State :=
  { startState m debug with ax := ax, ip := ip }

/-- A fact about the next state, if the outcome is one. -/
def next? {α : Type} (o : Host.Outcome State Fault Refusal) (f : State → α) : Option α :=
  match o with
  | .next t => some (f t)
  | .fault _ => none
  | .refused _ => none

/-! ### WellFormed: the check refuses an ill-formed term (R57) -/

theorem test_wf_refuses_unknown_nop : (Instr.unknownOpcode 0x90#8).wf = false := by decide
theorem test_wf_refuses_unknown_jmp : (Instr.unknownOpcode 0xEB#8).wf = false := by decide
theorem test_wf_accepts_unknown : (Instr.unknownOpcode 0xB1#8).wf = true := by decide

/-! ### Decode: words written from the spec's encodings -/

theorem test_decode_jmp_short :
    decodeTableWord 16 0b1000000011101011 = some (.jmpShort 0x80#8) := by decide
theorem test_decode_int_imm8 :
    decodeTableWord 16 0b0001001111001101 = some (.intImm8 0x13#8) := by decide
theorem test_decode_mov_al :
    decodeTableWord 16 0b0101011010110000 = some (.movAl 0x56#8) := by decide
theorem test_decode_mov_ah :
    decodeTableWord 16 0b0000111010110100 = some (.movAh 0x0E#8) := by decide
theorem test_decode_hlt : decodeTableWord 8 0b11110100 = some .hlt := by decide
theorem test_decode_nop : decodeTableWord 8 0b10010000 = some .nop := by decide
theorem test_decode_unknown : decodeTableWord 8 0b11001100 = some (.unknownOpcode 0xCC#8) := by decide

/-- The first two bytes of scenario A (L1-6), and what follows them is left. -/
theorem test_decode_leaves_rest : decode [0xB0#8, 0x41#8, 0xB4#8] = .ok (.movAl 0x41#8, [0xB4#8]) := rfl

/-- P2: at 0x7C06 a jump to 0x7C0A is `EB 02`; 0x7D06 is out of reach of it (R60). -/
theorem test_assemble_jmp : assembleJmpShort 0x7C06#16 0x7C0A#16 = some 0x02#8 := by decide
theorem test_assemble_jmp_out_of_reach : assembleJmpShort 0x7C06#16 0x7D06#16 = none := by decide

/-! ### Address formation (A-1, A-3, A-4) -/

theorem test_load_address : (phys Config.loadSeg Config.loadOff).toNat = Config.loadAddr := by decide
theorem test_phys_wraps : phys 0xFFFF#16 0xFFFF#16 = 0x0FFEF#20 := by decide
theorem test_operand_past_ffff : instrAddr (running 0 0xFFFF#16 false []) 1 = 0x10000 := by decide

/-! ### One step of each instruction -/

/-- J-6. -/
theorem test_jmp_wraps_upward :
    next? (step (running 0 0xFFFE#16 false [(0xFFFE, 0xEB#8), (0xFFFF, 0x0A#8)])) State.ip = some 0x000A#16 := by
  decide

/-- J-8: the operand byte comes from 0x10000. -/
theorem test_jmp_operand_at_10000 :
    next? (step (running 0 0xFFFF#16 false [(0x00000, 0x10#8), (0x0FFFF, 0xEB#8), (0x10000, 0x05#8)])) State.ip
      = some 0x0006#16 := by decide

/-- I-6. -/
theorem test_int_teletype :
    next? (step (running 0x0E41#16 0xFFFE#16 false [(0xFFFE, 0xCD#8), (0xFFFF, 0x10#8)]))
      (fun t => (t.tty, t.ip, t.ax)) = some ([0x41#8], 0x0000#16, 0x0E41#16) := by decide

/-- I-7 with DEBUG: AH selects, and the trace names the sub-function. -/
theorem test_int_unhandled_subfunction :
    next? (step (running 0x000E#16 0x7C04#16 true [(0x7C04, 0xCD#8), (0x7C05, 0x10#8)]))
      (fun t => (t.tty, t.trace.map TraceRecord.outcome)) =
      some ([], [.service (.unhandledSubfunction 0x00#8) 0x7C06#16]) := by decide

/-- M-6: not sign-extended. -/
theorem test_mov_al_not_extended :
    next? (step (running 0x00FF#16 0x7C00#16 false [(0x7C00, 0xB0#8), (0x7C01, 0x80#8)]))
      (fun t => (t.ax, t.ip)) = some (0x0080#16, 0x7C02#16) := by decide

/-- M-2 with DEBUG. -/
theorem test_mov_al_traced :
    next? (step (running 0x1234#16 0x7C00#16 true [(0x7C00, 0xB0#8), (0x7C01, 0x56#8)])) State.trace =
      some [{ cs := 0x0000#16, ip0 := 0x7C00#16, opcode := 0xB0#8, operand := .byte 0x56#8,
              outcome := .load 0x1256#16 0x7C02#16 }] := by decide

/-- M-3. -/
theorem test_mov_ah_keeps_low_byte :
    next? (step (running 0x1234#16 0x7C00#16 false [(0x7C00, 0xB4#8), (0x7C01, 0x56#8)])) State.ax
      = some 0x5634#16 := by decide

/-- M-10. -/
theorem test_mov_ah_at_ffff :
    next? (step (running 0x1234#16 0xFFFF#16 false [(0x0FFFF, 0xB4#8), (0x10000, 0x77#8)]))
      (fun t => (t.ax, t.ip)) = some (0x7734#16, 0x0001#16) := by decide

/-- H-1. -/
theorem test_hlt :
    next? (step (running 0x0E41#16 0x7C06#16 false [(0x7C06, 0xF4#8)]))
      (fun t => (t.run, t.term, t.ip)) = some (.halted, some .cleanHalt, 0x7C06#16) := by decide

/-- H-3: no further step exists. -/
theorem test_no_step_after_hlt :
    next? ((running 0x0E41#16 0x7C06#16 false [(0x7C06, 0xF4#8)]).run? 2) State.run = none := by decide

/-- N-2. -/
theorem test_nop_wraps :
    next? (step (running 0 0xFFFF#16 false [(0xFFFF, 0x90#8)])) (fun t => (t.ip, t.cs)) =
      some (0x0000#16, 0x0000#16) := by decide

/-- L1-7 (scenario B) with DEBUG (T-3). -/
theorem test_unknown_ff :
    next? (step (running 0 0x7C00#16 true [(0x7C00, 0xFF#8)])) (fun t => (t.term, t.ip, t.trace)) =
      some (some (.unknownOpcode 0xFF#8 0x0000#16 0x7C00#16), 0x7C00#16, []) := by decide

/-- The table word of a NOP runs as the first instruction. -/
theorem test_with_fetch_word :
    next? (step (State.reset.withFetchWord 8 0x90)) State.ip = some 0x7C01#16 := by decide

/-- LD-2: length first. -/
theorem test_load_too_short :
    validateImage (List.replicate 510 0#8 ++ [0x55#8]) = some (.imageTooShort 511) := by
  decide +kernel

/-! ### Memory -/

theorem test_write_keeps_order :
    Memory.set [(1, 0x11#8), (3, 0x33#8)] 2 0x22#8 = [(1, 0x11#8), (2, 0x22#8), (3, 0x33#8)] := by decide

/-! ### Witnesses: concrete states that meet the hypotheses of the statements -/

/-- An image of 510 bytes and the signature. -/
def imageOf (code : List Byte) : List Byte :=
  code ++ List.replicate (510 - code.length) 0#8 ++ [0x55#8, 0xAA#8]

/-- Scenario A (L1-6). -/
def scenarioA : List Byte := [0xB0#8, 0x41#8, 0xB4#8, 0x0E#8, 0xCD#8, 0x10#8, 0xF4#8]

theorem witness_validImage : validImage (imageOf scenarioA) := by
  refine ⟨?_, ?_, ?_⟩ <;> decide +kernel

/-- ValidLoadStagesTheSectorAndStarts, LoadIsAcceptedExactlyInIdle, OutputsAreAppendOnly,
MemoryOutsideTheSectorIsInitMem, EveryLoadKeepsTheInvariant: a load that starts a run. -/
theorem witness_valid_load (d : Bool) :
    State.reset.run = .idle ∧ ∃ t, load (imageOf scenarioA) d State.reset = .next t ∧ t.run = .running := by
  refine ⟨rfl, ?_⟩
  obtain ⟨w, hw, -⟩ | ⟨-, m, -, hl⟩ := load_idle_cases (imageOf scenarioA) d State.reset rfl
  · have : validateImage (imageOf scenarioA) = none := by
      rcases validateImage_cases (imageOf scenarioA) with ⟨h, -⟩ | ⟨-, h, -⟩ | ⟨-, h⟩
      · exact absurd witness_validImage.1 (by omega)
      · exact absurd witness_validImage h
      · exact h
    rw [this] at hw; cases hw
  · exact ⟨_, hl, rfl⟩

/-- FirstStepPerformsTheImagesFirstInstruction. -/
theorem witness_first_step (d : Bool) :
    State.reset.run = .idle ∧ validImage (imageOf scenarioA) ∧
    (∃ t, load (imageOf scenarioA) d State.reset = .next t) ∧
    ∃ rest, decode (imageOf scenarioA) = .ok (.movAl 0x41#8, rest) := by
  obtain ⟨h, t, ht, -⟩ := witness_valid_load d
  exact ⟨h, witness_validImage, ⟨t, ht⟩, _, rfl⟩

/-- EveryReachableStateMeetsTheInvariant: a running state is reachable. -/
theorem witness_reachable_running : ∃ t : State, t.Reachable ∧ t.run = .running := by
  obtain ⟨-, t, ht, hr⟩ := witness_valid_load true
  exact ⟨t, .load _ t _ _ (.idle [] rfl) ht, hr⟩

/-- TraceDoesNotInterfere: both loads of one image. -/
theorem witness_trace_pair :
    State.agreeButTrace (running 0 0 false []) (running 0 0 true []) ∧
    (∃ t, load (imageOf scenarioA) true State.reset = .next t) ∧
    ∃ t, load (imageOf scenarioA) false State.reset = .next t :=
  ⟨rfl, let ⟨_, t, ht, _⟩ := witness_valid_load true; ⟨t, ht⟩,
    let ⟨_, t, ht, _⟩ := witness_valid_load false; ⟨t, ht⟩⟩

/-- ShortImageFailsWhateverItHolds (511 bytes, and the empty image), FailedLoadLeavesOnlyItsReport. -/
theorem witness_short_image :
    State.reset.run = .idle ∧ (List.replicate 511 0x55#8).length < 512 ∧ ([] : List Byte).length < 512 ∧
    ¬ validImage [] := ⟨rfl, by decide +kernel, by decide, fun h => by simpa using h.1⟩

/-- WrongSignatureFails: LD-4, the signature swapped, in an image of exactly 512 bytes. -/
theorem witness_wrong_signature :
    State.reset.run = .idle ∧ 512 ≤ (List.replicate 510 0#8 ++ [0xAA#8, 0x55#8]).length ∧
    (List.replicate 510 0#8 ++ [0xAA#8, 0x55#8])[510]? = some 0xAA#8 ∧
    (List.replicate 510 0#8 ++ [0xAA#8, 0x55#8])[511]? = some 0x55#8 ∧
    (0xAA#8 ≠ 0x55#8 ∨ 0x55#8 ≠ 0xAA#8) :=
  ⟨rfl, by decide +kernel, by decide +kernel, by decide +kernel, .inl (by decide)⟩

/-- TrailingImageBytesAreIgnored: LD-6. -/
theorem witness_long_image : 512 ≤ (imageOf scenarioA ++ List.replicate 88 0xF4#8).length := by
  decide +kernel

/-- AccessesAreCheckedThenMade, each clause at the edge of the memory. -/
theorem witness_access_edges : 0xFFFFF < Config.memSize ∧ Config.memSize ≤ 0x100000 := by decide

/-- CanonicalMemoriesWithEqualBytesAreEqual. -/
theorem witness_canonical : Memory.wf [(0, 0x11#8), (0xFFFFF, 0x22#8)] = true ∧
    ∀ a, Memory.listed [(0, 0x11#8), (0xFFFFF, 0x22#8)] a = Memory.listed [(0, 0x11#8), (0xFFFFF, 0x22#8)] a :=
  ⟨by decide, fun _ => rfl⟩

/-- InstructionBytesAreAtIncreasingAddresses, second clause. -/
theorem witness_at_ffff :
    (running 0 0xFFFF#16 false []).cs = 0x0000#16 ∧ (running 0 0xFFFF#16 false []).ip = 0xFFFF#16 :=
  ⟨rfl, rfl⟩

/-- RelativeOffsetIsTwosComplement, each clause at its edges. -/
theorem witness_offset_edges : (0x00#8).toNat ≤ 0x7F ∧ (0x7F#8).toNat ≤ 0x7F ∧ 0x80 ≤ (0x80#8).toNat ∧
    0x80 ≤ (0xFF#8).toNat := by decide

/-- AlAndAhAreTheTwoBytesOfAx, the bits at both ends. -/
theorem witness_bit_edges : 0 < 8 ∧ 7 < 8 ∧ Reg.di ≠ .ax := by decide

/-- EveryOtherByteIsUnknown and the clauses about an unknown opcode. -/
theorem witness_unknown_byte :
    0xFF#8 ∉ [0xEB#8, 0xCD#8, 0xB0#8, 0xB4#8, 0xF4#8, 0x90#8] ∧ 0xFF#8 ∉ definedOpcodes := by decide

/-- DecodeOfEncodeIsTheInstruction. -/
theorem witness_wf : (Instr.jmpShort 0x80#8).wf = true ∧ (Instr.unknownOpcode 0x00#8).wf = true := by decide

/-- EncodeOfDecodeIsTheBytes and DecodeRejectsOnlyBytesThatEndTooSoon, each clause. -/
theorem witness_decode : decode [0xF4#8] = .ok (.hlt, []) ∧ decode [] = .error .noOpcodeByte ∧
    decode [0xB4#8] = .error (.operandByteMissing 0xB4#8) := ⟨rfl, rfl, rfl⟩

/-- AssembledJumpReachesItsTarget, at both ends of the displacement. -/
theorem witness_assembled :
    assembleJmpShort 0x7C00#16 0x7C81#16 = some 0x7F#8 ∧ assembleJmpShort 0x0000#16 0xFF82#16 = some 0x80#8 := by
  decide

/-- EngineStepsExactlyWhenRunning, each clause. -/
theorem witness_run_states :
    (running 0 0 false []).run = .running ∧ State.reset.run = .idle ∧
    (terminate (.imageTooShort 0) State.reset).run = .loadFailed ∧
    (terminate .cleanHalt State.reset).run = .halted := by decide

/-- Every `running` state meets the hypothesis on the run state. -/
theorem witness_running (ax ip : Word) (d : Bool) (m : Memory) : (running ax ip d m).run = .running := rfl

/-- StepRunsTheDecodedInstruction. -/
theorem witness_decoded : decode [(running 0 0 false [(0, 0xB0#8), (1, 0x41#8)]).fetchByte 0,
    (running 0 0 false [(0, 0xB0#8), (1, 0x41#8)]).fetchByte 1] = .ok (.movAl 0x41#8, []) := rfl

/-- The clauses by opcode byte: in the second halves of the statements about each instruction, and in
EachStepWritesIpByTheTable, EachStepEmitsAlOrNothing, TraceGrowsByOneRecordWhenDebug and
TraceRecordTellsTheStepsOutcome, a running state with DEBUG at each opcode byte has a next state. The first
stands at offset 0xFFFF. -/
theorem witness_opcodes :
    (∃ s t, s.run = .running ∧ s.debug = true ∧ s.ip = 0xFFFF#16 ∧ s.fetchByte 0 = 0xEB#8 ∧ step s = .next t) ∧
    (∃ s t, s.run = .running ∧ s.debug = true ∧ s.fetchByte 0 = 0xCD#8 ∧ step s = .next t) ∧
    (∃ s t, s.run = .running ∧ s.debug = true ∧ s.fetchByte 0 = 0xB0#8 ∧ step s = .next t) ∧
    (∃ s t, s.run = .running ∧ s.debug = true ∧ s.fetchByte 0 = 0xB4#8 ∧ step s = .next t) ∧
    (∃ s t, s.run = .running ∧ s.debug = true ∧ s.fetchByte 0 = 0xF4#8 ∧ step s = .next t) ∧
    (∃ s t, s.run = .running ∧ s.debug = true ∧ s.fetchByte 0 = 0x90#8 ∧ step s = .next t) ∧
    ∃ s t, s.run = .running ∧ s.debug = true ∧ s.fetchByte 0 ∉ definedOpcodes ∧ step s = .next t :=
  ⟨⟨running 0 0xFFFF#16 true [(0xFFFF, 0xEB#8), (0x10000, 0x05#8)], _, rfl, rfl, rfl, rfl, rfl⟩,
    ⟨running 0 0 true [(0, 0xCD#8), (1, 0x10#8)], _, rfl, rfl, rfl, rfl⟩,
    ⟨running 0 0 true [(0, 0xB0#8), (1, 0x41#8)], _, rfl, rfl, rfl, rfl⟩,
    ⟨running 0 0 true [(0, 0xB4#8), (1, 0x0E#8)], _, rfl, rfl, rfl, rfl⟩,
    ⟨running 0 0 true [(0, 0xF4#8)], _, rfl, rfl, rfl, rfl⟩,
    ⟨running 0 0 true [(0, 0x90#8)], _, rfl, rfl, rfl, rfl⟩,
    ⟨running 0 0 true [(0, 0xFF#8)], _, rfl, rfl, by decide, rfl⟩⟩

/-- UnhandledServiceIsSeenOnlyInTheTrace, both kinds, with DEBUG on and off. -/
theorem witness_unhandled_service :
    ((running 0x0F41#16 0 true [(0, 0xCD#8), (1, 0x10#8)]).fetchByte 0 = 0xCD#8 ∧
      ¬ ((running 0x0F41#16 0 true [(0, 0xCD#8), (1, 0x10#8)]).fetchByte 1 = 0x10#8 ∧
        (running 0x0F41#16 0 true [(0, 0xCD#8), (1, 0x10#8)]).ah = 0x0E#8)) ∧
    (running 0x0E41#16 0 false [(0, 0xCD#8), (1, 0x13#8)]).fetchByte 0 = 0xCD#8 ∧
    ¬ ((running 0x0E41#16 0 false [(0, 0xCD#8), (1, 0x13#8)]).fetchByte 1 = 0x10#8 ∧
        (running 0x0E41#16 0 false [(0, 0xCD#8), (1, 0x13#8)]).ah = 0x0E#8) := by decide

/-- The addresses at the edges of the sector, inside and outside. -/
theorem witness_sector_edges :
    0 < 512 ∧ 511 < 512 ∧ (0x7BFF < 0x7C00 ∨ 0x7E00 ≤ 0x7BFF) ∧ (0x7E00 < 0x7C00 ∨ 0x7E00 ≤ 0x7E00) := by decide

/-- TerminationsAreTestedInOrder, each clause, over memories of 0, 1 and 1 bytes. -/
theorem witness_small_memories :
    0 ≤ instrAddr (running 0 0 false []) 0 ∧
    (instrAddr (running 0 0 false [(0, 0xFF#8)]) 0 < 1 ∧
      (running 0 0 false [(0, 0xFF#8)]).fetchByte 0 ∉ definedOpcodes) ∧
    instrAddr (running 0 0 false [(0, 0xEB#8)]) 0 < 1 ∧
      (running 0 0 false [(0, 0xEB#8)]).fetchByte 0 ∈ [0xEB#8, 0xCD#8, 0xB0#8, 0xB4#8] ∧
      1 ≤ instrAddr (running 0 0 false [(0, 0xEB#8)]) 1 := by decide

/-- OutputsAreAppendOnly and NoRunChangesMemoryOrTheInertRegisters: a run of two steps. -/
theorem witness_run : ∃ t, (running 0 0 true [(0, 0x90#8), (1, 0xF4#8)]).run? 2 = .next t := ⟨_, rfl⟩

/-- NoStepEndsWithAddressOutOfRange: its hypotheses are met in a state no run reaches. -/
theorem witness_address_report :
    ∃ t, step { running 0 0 false [(0, 0x90#8)] with term := some (.addressOutOfRange 0x100000) } = .next t ∧
      t.term = some (.addressOutOfRange 0x100000) := ⟨_, rfl, rfl⟩

/-- TerminationIsWrittenOnceAndIsFinal. -/
theorem witness_termination_written :
    (running 0 0 false [(0, 0xF4#8)]).term = none ∧
    ∃ t, step (running 0 0 false [(0, 0xF4#8)]) = .next t ∧ t.term = some .cleanHalt := ⟨rfl, _, rfl, rfl⟩

/-- JumpToItselfNeverEnds (J-2). -/
theorem witness_jump_to_itself :
    (running 0 0x7C00#16 false [(0x7C00, 0xEB#8), (0x7C01, 0xFE#8)]).run = .running ∧
    (running 0 0x7C00#16 false [(0x7C00, 0xEB#8), (0x7C01, 0xFE#8)]).fetchByte 0 = 0xEB#8 ∧
    (running 0 0x7C00#16 false [(0x7C00, 0xEB#8), (0x7C01, 0xFE#8)]).fetchByte 1 = 0xFE#8 := by decide

/-- EveryStepKeepsTheInvariant and EveryLoadKeepsTheInvariant: states that meet it, one of them with a step. -/
theorem witness_invariant_step :
    ∃ s t : State, s.Inv ∧ step s = .next t := by
  refine ⟨running 0 0 false [(0, 0x90#8), (0x7DFE, 0x55#8), (0x7DFF, 0xAA#8)], _, ?_, rfl⟩
  exact
    { memory := by decide
      empty := by decide
      report := fun w h => by cases h
      quiet := fun _ => ⟨rfl, rfl⟩
      untraced := fun _ => rfl
      inert := ⟨rfl, rfl, fun r _ => by cases r <;> rfl⟩
      signature := fun _ => ⟨rfl, rfl⟩ }

/-- EveryLoadKeepsTheInvariant, on both of its cases: the load of a block that meets the invariant. -/
theorem witness_invariant_idle : State.reset.Inv ∧
    (∃ t, load (imageOf scenarioA) false State.reset = .next t) ∧ ∃ t, load [] false State.reset = .next t :=
  ⟨{ memory := rfl
     empty := by decide
     report := fun w h => by cases h
     quiet := fun _ => ⟨rfl, rfl⟩
     untraced := fun _ => rfl
     inert := ⟨rfl, rfl, fun r _ => by cases r <;> rfl⟩
     signature := fun h => by rcases h with h | h <;> cases h },
   let ⟨_, t, ht, _⟩ := witness_valid_load false; ⟨t, ht⟩, ⟨_, rfl⟩⟩

end Sys2Proof.Tests
end

section
/-! SUPPORT. What an instruction, a step and a load do to the state, said once each; from these, that outputs
only grow, that the inert parts of the state are kept, and the invariant of a block's life. -/

namespace Sys2Proof.Machine

/-! ### The frame: what no update of a run writes -/

/-- `State.Keeps` with memory equal as data: the seven registers, CS, FLAGS, DEBUG and the listed bytes. -/
structure State.Frame (s t : State) : Prop where
  regs  : ∀ r : Reg, r ≠ .ax → t.reg r = s.reg r
  cs    : t.cs = s.cs
  flags : t.flags = s.flags
  dbg   : t.debug = s.debug
  mem   : t.mem = s.mem

theorem State.Frame.keeps {s t : State} (h : s.Frame t) : s.Keeps t :=
  ⟨h.regs, h.cs, h.flags, h.dbg, fun a => by rw [h.mem]⟩

theorem State.Frame.refl (s : State) : s.Frame s := ⟨fun _ _ => rfl, rfl, rfl, rfl, rfl⟩

theorem State.Frame.trans {s t u : State} (h : s.Frame t) (h' : t.Frame u) : s.Frame u :=
  ⟨fun r hr => (h'.regs r hr).trans (h.regs r hr), h'.cs.trans h.cs, h'.flags.trans h.flags,
    h'.dbg.trans h.dbg, h'.mem.trans h.mem⟩

theorem frame_setIp (s : State) (v : Word) : s.Frame (s.setIp v) :=
  ⟨fun r _ => reg_setIp s v r, rfl, rfl, rfl, rfl⟩

theorem frame_advance (s : State) (n : Nat) : s.Frame (s.advance n) := frame_setIp s _

theorem frame_emitTty (s : State) (b : Byte) : s.Frame (s.emitTty b) :=
  ⟨fun r _ => reg_emitTty s b r, rfl, rfl, rfl, rfl⟩

theorem frame_terminate (w : Termination) (s : State) : s.Frame (terminate w s) :=
  ⟨fun r _ => reg_terminate w s r, rfl, rfl, rfl, rfl⟩

theorem frame_setAl (s : State) (v : Byte) : s.Frame (s.setAl v) :=
  ⟨reg_setAl_other s v, rfl, rfl, rfl, rfl⟩

theorem frame_setAh (s : State) (v : Byte) : s.Frame (s.setAh v) :=
  ⟨reg_setAh_other s v, rfl, rfl, rfl, rfl⟩

theorem frame_emitTrace (i : Instr) (s : State) : s.Frame (emitTrace i s) :=
  ⟨fun r _ => reg_emitTrace i s r, emitTrace_cs i s, emitTrace_flags i s, emitTrace_debug i s,
    emitTrace_mem i s⟩

/-! ### The bytes of AX after a write to one of them (R14) -/

@[simp] theorem al_setAl (s : State) (v : Byte) : (s.setAl v).al = v := low_joinBytes s.ah v

@[simp] theorem ah_setAl (s : State) (v : Byte) : (s.setAl v).ah = s.ah := high_joinBytes s.ah v

@[simp] theorem ah_setAh (s : State) (v : Byte) : (s.setAh v).ah = v := high_joinBytes v s.al

@[simp] theorem al_setAh (s : State) (v : Byte) : (s.setAh v).al = s.al := low_joinBytes v s.al

/-- AX is AH and AL joined. -/
theorem toNat_ax (s : State) : (s.reg .ax).toNat = s.ah.toNat * 256 + s.al.toNat := by
  rw [toNat_ah, toNat_al]
  omega

theorem getLsbD_al (s : State) {k : Nat} (hk : k < 8) : s.al.getLsbD k = (s.reg .ax).getLsbD k := by
  simp [State.al, hk]

theorem getLsbD_ah (s : State) {k : Nat} (hk : k < 8) : s.ah.getLsbD k = (s.reg .ax).getLsbD (8 + k) := by
  simp [State.ah, hk]

/-! ### What a service and an instruction do -/

/-- Of the state, a service can change only `tty`, by AL at its end. -/
theorem service_eq_emitTty_or_self (n : Byte) (s : State) :
    service n s = s.emitTty s.al ∨ service n s = s := by
  obtain ⟨-, -, -, h⟩ | ⟨-, -, -, h⟩ | ⟨-, -, h⟩ := service_cases n s
  · exact .inl h
  · exact .inr h
  · exact .inr h

theorem frame_service (n : Byte) (s : State) : s.Frame (service n s) := by
  obtain h | h := service_eq_emitTty_or_self n s <;> rw [h]
  · exact frame_emitTty s s.al
  · exact .refl s

theorem keepsRun_service (n : Byte) (s : State) : s.keepsRun (service n s) := by
  obtain h | h := service_eq_emitTty_or_self n s <;> rw [h] <;> exact ⟨rfl, rfl⟩

@[simp] theorem service_trace (n : Byte) (s : State) : (service n s).trace = s.trace := by
  obtain h | h := service_eq_emitTty_or_self n s <;> rw [h]
  rfl

theorem tty_prefix_service (n : Byte) (s : State) : s.tty <+: (service n s).tty := by
  obtain h | h := service_eq_emitTty_or_self n s <;> rw [h]
  exact List.prefix_append s.tty [s.al]

/-- Every instruction keeps the frame (R15, R18, R23, R29, R39). -/
theorem exec_frame {i : Instr} {s t : State} (h : exec i s = .next t) : s.Frame t := by
  cases i with
  | jmpShort rel8 => cases h; exact frame_setIp s _
  | intImm8 n => cases h; exact (frame_service n s).trans (frame_advance _ 2)
  | movAl imm8 => cases h; exact (frame_setAl s imm8).trans (frame_advance _ 2)
  | movAh imm8 => cases h; exact (frame_setAh s imm8).trans (frame_advance _ 2)
  | hlt => cases h; exact frame_terminate _ s
  | nop => cases h; exact frame_advance s 1
  | unknownOpcode b => cases h; exact frame_terminate _ s

/-- No instruction writes the trace: `emitTrace` has done so before it (R76). -/
theorem exec_trace {i : Instr} {s t : State} (h : exec i s = .next t) : t.trace = s.trace := by
  cases i with
  | intImm8 n => cases h; exact service_trace n s
  | jmpShort | movAl | movAh | hlt | nop | unknownOpcode => cases h; rfl

/-- No instruction takes a byte from `tty` or changes one (R30). -/
theorem exec_tty_prefix {i : Instr} {s t : State} (h : exec i s = .next t) : s.tty <+: t.tty := by
  cases i with
  | intImm8 n => cases h; exact tty_prefix_service n s
  | jmpShort | movAl | movAh | hlt | nop | unknownOpcode => cases h; exact List.prefix_rfl

/-- An instruction leaves the run as it was, or it is one of the two that end it. -/
theorem exec_run_cases {i : Instr} {s t : State} (h : exec i s = .next t) :
    s.keepsRun t ∨ (i = .hlt ∧ t = terminate .cleanHalt s) ∨
      ∃ b, i = .unknownOpcode b ∧ t = terminate (.unknownOpcode b s.cs s.ip) s := by
  cases i with
  | jmpShort | movAl | movAh | nop => cases h; exact .inl ⟨rfl, rfl⟩
  | intImm8 n => cases h; exact .inl (keepsRun_service n s)
  | hlt => cases h; exact .inr (.inl ⟨rfl, rfl⟩)
  | unknownOpcode b => cases h; exact .inr (.inr ⟨b, rfl, rfl⟩)

/-! ### What a step does -/

/-- What the decoder selects is well-formed: an unknown opcode is none of the six (R57). -/
theorem toInstr_wf (b o : Byte) : ((decodeOpcode b).toInstr o).wf = true := by
  unfold decodeOpcode
  repeat' split
  all_goals simp_all [Opcode.toInstr, Instr.wf, definedOpcodes]

theorem opcodeByte_nextInstr (s : State) : opcodeByte (nextInstr s) = s.fetchByte 0 :=
  opcodeByte_toInstr _ _

theorem fetchByte_eq_of_nextInstr_hlt {s : State} (h : nextInstr s = .hlt) : s.fetchByte 0 = 0xF4#8 := by
  rw [← opcodeByte_nextInstr, h]; rfl

theorem fetchByte_eq_of_nextInstr_unknown {s : State} {b : Byte} (h : nextInstr s = .unknownOpcode b) :
    b = s.fetchByte 0 := by
  rw [← opcodeByte_nextInstr, h]; rfl

theorem notMem_definedOpcodes_of_nextInstr_unknown {s : State} {b : Byte}
    (h : nextInstr s = .unknownOpcode b) : b ∉ definedOpcodes := by
  have hwf : (Instr.unknownOpcode b).wf = true := h ▸ toInstr_wf _ _
  simpa [Instr.wf] using hwf

@[simp] theorem fetchByte_emitTrace (i : Instr) (s : State) (k : Nat) :
    (emitTrace i s).fetchByte k = s.fetchByte k := by
  simp [State.fetchByte, instrAddr]

@[simp] theorem nextInstr_emitTrace (i : Instr) (s : State) : nextInstr (emitTrace i s) = nextInstr s := by
  simp [nextInstr]

/-- The instruction at CS:IP leaves the run as it was, or it ends it with a report that is true. -/
theorem exec_nextInstr_cases {s t : State} (h : exec (nextInstr s) s = .next t) :
    s.keepsRun t ∨ ∃ w, w.ran = true ∧ s.reportTrue w ∧ t = terminate w s := by
  obtain hk | ⟨hi, rfl⟩ | ⟨b, hi, rfl⟩ := exec_run_cases h
  · exact .inl hk
  · exact .inr ⟨.cleanHalt, rfl, fetchByte_eq_of_nextInstr_hlt hi, rfl⟩
  · exact .inr ⟨.unknownOpcode b s.cs s.ip, rfl, ⟨fetchByte_eq_of_nextInstr_unknown hi,
      notMem_definedOpcodes_of_nextInstr_unknown hi, rfl, rfl⟩, rfl⟩

/-- Everything a step can do to the run: after its trace record, leave it as it was or end it with a report
that is true. -/
theorem step_run_cases {s t : State} (h : step s = .next t) :
    s.keepsRun t ∨ ∃ w, w.ran = true ∧ (emitTrace (nextInstr s) s).reportTrue w ∧
      t = terminate w (emitTrace (nextInstr s) s) := by
  obtain hk | hend := exec_nextInstr_cases (s := emitTrace (nextInstr s) s) (by simpa using (step_next h).2)
  · exact .inl (by simpa [State.keepsRun] using hk)
  · exact .inr hend

theorem step_frame {s t : State} (h : step s = .next t) : s.Frame t :=
  (frame_emitTrace _ s).trans (exec_frame (step_next h).2)

/-- What a step appends to the trace. -/
theorem step_trace {s t : State} (h : step s = .next t) :
    t.trace = s.trace ++ (if s.debug then (traceRecord (nextInstr s) s).toList else []) := by
  rw [exec_trace (step_next h).2, emitTrace_trace]

theorem step_tty_prefix {s t : State} (h : step s = .next t) : s.tty <+: t.tty := by
  simpa using exec_tty_prefix (step_next h).2

theorem step_of_halted {s : State} (h : s.run = .halted) : step s = .fault .engineHalted := by
  simp [step, engineStep, h]

/-! ### What a load does -/

/-- The reason of a failed validation is one of a run that never started, and is true in every state. -/
theorem validateImage_eq_some {image : List Byte} {w : Termination} (h : validateImage image = some w) :
    w.ran = false ∧ ∀ s : State, s.reportTrue w := by
  obtain ⟨hlen, hv⟩ | ⟨hlen, hbad, hv⟩ | ⟨-, hv⟩ := validateImage_cases image <;> rw [hv] at h <;> cases h
  · exact ⟨rfl, fun _ => hlen⟩
  · exact ⟨rfl, fun _ hsig => hbad ⟨hlen, hsig⟩⟩

theorem validImage_of_validateImage {image : List Byte} (h : validateImage image = none) :
    validImage image := by
  obtain ⟨-, hv⟩ | ⟨-, -, hv⟩ | ⟨hvalid, -⟩ := validateImage_cases image
  · rw [hv] at h; cases h
  · rw [hv] at h; cases h
  · exact hvalid

/-- The sector's signature. -/
def Memory.hasSignature (m : Memory) : Prop :=
  Memory.byteAt m 0x7DFE = 0x55#8 ∧ Memory.byteAt m 0x7DFF = 0xAA#8

/-- A valid image staged keeps the canonical form and puts its signature in memory (R103). -/
theorem stage_validImage {image : List Byte} {m m' : Memory} (hvalid : validImage image)
    (h : stage Config.memSize Config.loadAddr (image.take Config.sectorSize) m = .ok m') :
    (Memory.wf m = true → Memory.wf m' = true) ∧ Memory.hasSignature m' := by
  obtain ⟨hlen, h510, h511⟩ := hvalid
  have htake : (image.take 512).length = 512 := by simp [hlen]
  obtain ⟨m₁, hm₁, hbyte, hwf⟩ := stage_spec (image.take 512) 0x7C00 m (by rw [htake]; decide)
  obtain rfl : m₁ = m' := Except.ok.inj (hm₁.symm.trans h)
  have hstaged : ∀ i, i < 512 → Memory.byteAt m₁ (0x7C00 + i) = image.getD i 0#8 := fun i hi => by
    rw [hbyte, htake, if_pos (by omega), Nat.add_sub_cancel_left]
    simp [List.getD_eq_getElem?_getD, hi]
  exact ⟨hwf, (hstaged 510 (by decide)).trans h510, (hstaged 511 (by decide)).trans h511⟩

theorem load_next_idle {image : List Byte} {d : Bool} {s t : State} (h : load image d s = .next t) :
    s.run = .idle := by
  unfold load at h
  cases hrun : s.run <;> simp [hrun] at h ⊢

/-- Everything a load that gives a next state has done, in `Idle`: reported a true reason of a failed
validation, or started a run over a memory that holds the signature. -/
theorem load_next {image : List Byte} {d : Bool} {s t : State} (h : load image d s = .next t) :
    s.run = .idle ∧
      ((∃ w, w.ran = false ∧ s.reportTrue w ∧ t = terminate w s) ∨
        ∃ m, (Memory.wf s.mem = true → Memory.wf m = true) ∧ Memory.hasSignature m ∧ t = startState m d) := by
  have hidle := load_next_idle h
  refine ⟨hidle, ?_⟩
  obtain ⟨w, hv, hl⟩ | ⟨hv, m, hm, hl⟩ := load_idle_cases image d s hidle <;> rw [hl] at h <;> cases h
  · obtain ⟨hran, htrue⟩ := validateImage_eq_some hv
    exact .inl ⟨w, hran, htrue s, rfl⟩
  · obtain ⟨hwf, hsig⟩ := stage_validImage (validImage_of_validateImage hv) hm
    exact .inr ⟨m, hwf, hsig, rfl⟩

/-! ### Where the invariant comes from -/

/-- With CS zero, IP is the physical address of the opcode byte (R35). -/
theorem instrAddr_zero_of_cs_zero {s : State} (h : s.cs = 0#16) : instrAddr s 0 = s.ip.toNat := by
  have hip : s.ip.toNat < 2 ^ 20 := by omega
  simpa [instrAddr, phys, h] using Nat.mod_eq_of_lt hip

theorem Termination.runAfter_of_ran {w : Termination} (h : w.ran = true) : w.runAfter = .halted := by
  simp [Termination.runAfter, h]

theorem Termination.runAfter_of_not_ran {w : Termination} (h : w.ran = false) :
    w.runAfter = .loadFailed := by
  simp [Termination.runAfter, h]

theorem inv_idle {m : Memory} (hm : Memory.wf m = true) : State.Inv { State.reset with mem := m } where
  memory := hm
  empty := by simp [State.reset]
  report := fun w h => by cases h
  quiet := fun _ => ⟨rfl, rfl⟩
  untraced := fun _ => rfl
  inert := ⟨rfl, rfl, fun r _ => by cases r <;> rfl⟩
  signature := fun h => by rcases h with h | h <;> cases h

theorem inv_startState {m : Memory} (d : Bool) (hm : Memory.wf m = true) (hsig : Memory.hasSignature m) :
    (startState m d).Inv where
  memory := hm
  empty := by simp [startState]
  report := fun w h => by cases h
  quiet := fun _ => ⟨rfl, rfl⟩
  untraced := fun _ => rfl
  inert := ⟨rfl, rfl, fun r _ => by cases r <;> rfl⟩
  signature := fun _ => hsig

theorem State.Frame.inert {s t : State} (hf : s.Frame t)
    (h : s.cs = 0#16 ∧ s.flags = 0#16 ∧ ∀ r : Reg, r ≠ .ax → s.reg r = 0#16) :
    t.cs = 0#16 ∧ t.flags = 0#16 ∧ ∀ r : Reg, r ≠ .ax → t.reg r = 0#16 := by
  obtain ⟨hcs, hflags, hregs⟩ := h
  exact ⟨hf.cs.trans hcs, hf.flags.trans hflags, fun r hr => (hf.regs r hr).trans (hregs r hr)⟩

/-- A running state's invariant goes on with the run, if nothing is traced without DEBUG. -/
theorem inv_of_keepsRun {s t : State} (h : s.Inv) (hrun : s.run = .running) (hf : s.Frame t)
    (hk : s.keepsRun t) (htrace : s.debug = false → t.trace = s.trace) : t.Inv := by
  obtain ⟨hkrun, hkterm⟩ := hk
  have ht : t.run = .running := hkrun.trans hrun
  have hnone : t.term = none := hkterm.trans (h.empty.mpr (.inr hrun))
  exact
    { memory := by rw [hf.mem]; exact h.memory
      empty := by simp [hnone, ht]
      report := fun w hw => by rw [hnone] at hw; cases hw
      quiet := fun hq => by simp [ht] at hq
      untraced := fun hd => by
        rw [hf.dbg] at hd
        exact (htrace hd).trans (h.untraced hd)
      inert := hf.inert h.inert
      signature := fun _ => by rw [hf.mem]; exact h.signature (.inl hrun) }

/-- Ending a block that has not ended, with a true report that fits its run state, keeps the invariant. -/
theorem inv_terminate {s : State} {w : Termination} (h : s.Inv) (htrue : s.reportTrue w)
    (hfits : (s.run = .running ∧ w.ran = true) ∨ (s.run = .idle ∧ w.ran = false)) :
    (terminate w s).Inv where
  memory := h.memory
  empty := by
    obtain ⟨-, hran⟩ | ⟨-, hran⟩ := hfits
    · simp [Termination.runAfter_of_ran hran]
    · simp [Termination.runAfter_of_not_ran hran]
  report := fun w' hw' => by
    obtain rfl : w = w' := Option.some.inj hw'
    refine ⟨rfl, ?_⟩
    cases w <;> exact htrue
  quiet := fun hq => by
    obtain ⟨-, hran⟩ | ⟨hidle, -⟩ := hfits
    · simp [Termination.runAfter_of_ran hran] at hq
    · exact h.quiet (.inl hidle)
  untraced := h.untraced
  inert := (frame_terminate w s).inert h.inert
  signature := fun hstarted => by
    obtain ⟨hrun, -⟩ | ⟨-, hran⟩ := hfits
    · exact h.signature (.inl hrun)
    · simp [Termination.runAfter_of_not_ran hran] at hstarted

theorem inv_emitTrace {s : State} (i : Instr) (h : s.Inv) (hrun : s.run = .running) :
    (emitTrace i s).Inv :=
  inv_of_keepsRun h hrun (frame_emitTrace i s) ⟨emitTrace_run i s, emitTrace_term i s⟩ fun hd => by
    simp [emitTrace_trace, hd]

theorem inv_step {s t : State} (h : s.Inv) (hstep : step s = .next t) : t.Inv := by
  have hrun := step_next_running hstep
  obtain hk | ⟨w, hran, htrue, rfl⟩ := step_run_cases hstep
  · exact inv_of_keepsRun h hrun (step_frame hstep) hk fun hd => by simp [step_trace hstep, hd]
  · exact inv_terminate (inv_emitTrace _ h hrun) htrue (.inl ⟨(emitTrace_run _ s).trans hrun, hran⟩)

theorem inv_load {s t : State} {image : List Byte} {d : Bool} (h : s.Inv)
    (hload : load image d s = .next t) : t.Inv := by
  obtain ⟨hidle, ⟨w, hran, htrue, rfl⟩ | ⟨m, hwf, hsig, rfl⟩⟩ := load_next hload
  · exact inv_terminate h htrue (.inr ⟨hidle, hran⟩)
  · exact inv_startState d (hwf h.memory) hsig

/-- The invariant's induction over a block's life. -/
theorem State.Reachable.inv {s : State} (h : s.Reachable) : s.Inv := by
  induction h with
  | idle m hm => exact inv_idle hm
  | load s t image d _ hload ih => exact inv_load ih hload
  | step s t _ hstep ih => exact inv_step ih hstep

/-! ### Runs -/

theorem run?_frame {k : Nat} {s t : State} (h : s.run? k = .next t) : s.Frame t :=
  run?_relates State.Frame .refl (fun _ _ _ => .trans) (fun _ _ => step_frame) k s t h

/-- Both outputs of `s` are initial parts of those of `t`. -/
def State.outputsGrow (s t : State) : Prop := s.tty <+: t.tty ∧ s.trace <+: t.trace

theorem step_outputsGrow {s t : State} (h : step s = .next t) : s.outputsGrow t :=
  ⟨step_tty_prefix h, by rw [step_trace h]; exact List.prefix_append _ _⟩

theorem run?_outputsGrow {k : Nat} {s t : State} (h : s.run? k = .next t) : s.outputsGrow t :=
  run?_relates State.outputsGrow (fun _ => ⟨List.prefix_rfl, List.prefix_rfl⟩)
    (fun _ _ _ ⟨htty, htrace⟩ ⟨htty', htrace'⟩ => ⟨htty.trans htty', htrace.trans htrace'⟩)
    (fun _ _ => step_outputsGrow) k s t h

/-- `Halted` is terminal (R27). -/
theorem run?_succ_of_halted {s : State} (k : Nat) (h : s.run = .halted) :
    s.run? (k + 1) = .fault .engineHalted :=
  run?_succ_of_fault k (step_of_halted h)

/-! ### The obligations -/

/-- Settles O29: a load that leaves a run behind is `startState`; and a step appends at most, which carries
over to runs. -/
theorem outputsAreAppendOnly : Obligations.OutputsAreAppendOnly := by
  refine ⟨fun s t image d hload hrun => ?_, fun k s t => run?_outputsGrow⟩
  obtain ⟨-, ⟨w, hran, -, rfl⟩ | ⟨m, -, -, rfl⟩⟩ := load_next hload
  · simp [Termination.runAfter_of_not_ran hran] at hrun
  · exact ⟨rfl, rfl⟩

/-- Settles O43: every step keeps the frame, so every run does. -/
theorem noRunChangesMemoryOrTheInertRegisters : Obligations.NoRunChangesMemoryOrTheInertRegisters :=
  fun _ _ _ h => ⟨(run?_frame h).keeps, (run?_frame h).mem⟩

/-- Settles O46: by what a step does to the run, on either side of its trace record. -/
theorem everyStepKeepsTheInvariant : Obligations.EveryStepKeepsTheInvariant :=
  fun _ _ => inv_step

/-- Settles O48: by induction over the block's life; CS is zero by the invariant. -/
theorem everyReachableStateMeetsTheInvariant : Obligations.EveryReachableStateMeetsTheInvariant :=
  fun _ h => ⟨h.inv, instrAddr_zero_of_cs_zero h.inv.inert.1⟩

/-- Settles O34: a step that fills an empty record has ended the run, and `Halted` has no step. -/
theorem terminationIsWrittenOnceAndIsFinal : Obligations.TerminationIsWrittenOnceAndIsFinal := by
  intro s t w hstep hnone hsome
  have hhalted : t.run = .halted := by
    obtain ⟨-, hterm⟩ | ⟨w', hran, -, rfl⟩ := step_run_cases hstep
    · rw [hterm, hnone] at hsome; cases hsome
    · exact Termination.runAfter_of_ran hran
  refine ⟨hhalted, by simp [State.status, hsome], fun k u hrun => ?_⟩
  rw [run?_succ_of_halted k hhalted] at hrun
  cases hrun

/-- Settles O47: a load ends an idle block with a true report, or starts a run over a staged memory. -/
theorem everyLoadKeepsTheInvariant : Obligations.EveryLoadKeepsTheInvariant :=
  fun _ _ _ _ => inv_load

/-- Settles O6: AX is the join of its two bytes, and each write joins the new byte with the kept one. -/
theorem alAndAhAreTheTwoBytesOfAx : Obligations.AlAndAhAreTheTwoBytesOfAx :=
  fun s v => ⟨fun _ hk => ⟨getLsbD_al s hk, getLsbD_ah s hk⟩, toNat_ax s,
    al_setAl s v, ah_setAl s v, ah_setAh s v, al_setAh s v,
    fun r hr => ⟨reg_setAl_other s v r hr, reg_setAh_other s v r hr⟩⟩

/-- Settles O45: both blocks are `Idle` with nothing written yet. -/
theorem idleBlockMeetsTheInvariant : Obligations.IdleBlockMeetsTheInvariant :=
  ⟨inv_idle State.reset_mem_wf, fun _ => inv_idle⟩

end Sys2Proof.Machine
end

section
/-! SUPPORT. Memory and addresses (20_memory.md): an access that fails its check, physical addresses as
numbers, and what a load leaves unchanged outside the sector. -/

namespace Sys2Proof.Machine

/-! ### Accesses and addresses -/

/-- A read outside the memory. -/
theorem memRead_of_le {size a : Nat} (m : Memory) (h : size ≤ a) : memRead size m a = .error a :=
  if_neg (Nat.not_lt.mpr h)

/-- A write outside the memory. -/
theorem memWrite_of_le {size a : Nat} (m : Memory) (v : Byte) (h : size ≤ a) :
    memWrite size m a v = .error a :=
  if_neg (Nat.not_lt.mpr h)

/-- The shift loses no bit of the 16-bit segment, so only the sum wraps (R35). -/
theorem toNat_phys (seg off : Word) :
    (phys seg off).toNat = (seg.toNat * 2 ^ 4 + off.toNat) % 2 ^ 20 := by
  have hseg : seg.toNat < 2 ^ 20 := by omega
  have hoff : off.toNat < 2 ^ 20 := by omega
  rw [phys, BitVec.toNat_add, BitVec.toNat_shiftLeft, BitVec.toNat_setWidth, BitVec.toNat_setWidth,
    Nat.shiftLeft_eq, Nat.mod_eq_of_lt hseg, Nat.mod_eq_of_lt hoff, Nat.mod_add_mod]

theorem toNat_phys_zero (off : Word) : (phys 0x0000#16 off).toNat = off.toNat := by
  have hoff : off.toNat < 2 ^ 20 := by omega
  rw [toNat_phys, BitVec.toNat_zero, Nat.zero_mul, Nat.zero_add, Nat.mod_eq_of_lt hoff]

/-! ### The frame of a load -/

/-- Staging bytes that fit writes no address outside their range. -/
theorem byteAt_stage_outside {bs : List Byte} {addr a : Nat} {m m' : Memory}
    (hfit : addr + bs.length ≤ Config.memSize) (h : stage Config.memSize addr bs m = .ok m')
    (hout : a < addr ∨ addr + bs.length ≤ a) : Memory.byteAt m' a = Memory.byteAt m a := by
  obtain ⟨m₁, hm₁, hbyte, -⟩ := stage_spec bs addr m hfit
  obtain rfl : m₁ = m' := Except.ok.inj (hm₁.symm.trans h)
  rw [hbyte, if_neg (by omega)]

/-- A load writes memory inside the sector only, whether or not the image is valid (R103, R105). -/
theorem byteAt_load_outside {image : List Byte} {d : Bool} {s t : State} {a : Nat}
    (h : load image d s = .next t) (hout : a < 0x7C00 ∨ 0x7E00 ≤ a) :
    Memory.byteAt t.mem a = Memory.byteAt s.mem a := by
  obtain ⟨w, -, hl⟩ | ⟨-, m, hm, hl⟩ := load_idle_cases image d s (load_next_idle h) <;> rw [hl] at h <;> cases h
  · rfl
  · have hlen : (image.take Config.sectorSize).length ≤ 512 := List.length_take_le _ _
    exact byteAt_stage_outside (by rw [Config.loadAddr, Config.memSize]; omega) hm
      (by rw [Config.loadAddr]; omega)

/-- Over no listed buffer every byte is its `INIT_MEM` byte (R44). -/
theorem byteAt_reset_mem (a : Nat) : Memory.byteAt State.reset.mem a = Config.initMem a := rfl

/-! ### The obligations -/

/-- Settles O41: a load keeps every byte outside the sector, and `State.reset` lists none. -/
theorem memoryOutsideTheSectorIsInitMem : Obligations.MemoryOutsideTheSectorIsInitMem :=
  fun _ _ _ hload a hout => (byteAt_load_outside hload hout).trans (byteAt_reset_mem a)

/-- Settles O2: inside the memory the access is `byteAt` or `set`; outside it is the error. -/
theorem accessesAreCheckedThenMade : Obligations.AccessesAreCheckedThenMade :=
  fun _ m a v =>
    ⟨fun hin => ⟨memRead_of_lt m hin, Memory.set m a v, memWrite_of_lt m v hin,
        Memory.byteAt_set_same m a v, fun a' hne => Memory.byteAt_set_other m a a' v hne⟩,
      fun hout => ⟨memRead_of_le m hout, memWrite_of_le m v hout⟩⟩

/-- Settles O4: the sum wraps once, and over segment zero it is below 2^20. -/
theorem physicalAddressIsSegmentTimesSixteenPlusOffset :
    Obligations.PhysicalAddressIsSegmentTimesSixteenPlusOffset :=
  ⟨toNat_phys, toNat_phys_zero⟩

end Sys2Proof.Machine
end

section
/-! SUPPORT. The encoding (30_encoding.md): what each opcode byte selects, what the decoder answers for each shape
of byte list, and what encoding does with the instruction it selects. -/

namespace Sys2Proof

/-! ### The opcode byte -/

/-- The catch-all row of R56. -/
theorem decodeOpcode_of_notMem {b : Byte} (h : b ∉ definedOpcodes) : decodeOpcode b = .unknown b := by
  simp [definedOpcodes] at h
  simp [decodeOpcode, h]

/-- Format F1 belongs to four of the six bytes, and to no unknown opcode (R53, R59). -/
theorem hasOperand_decodeOpcode_iff (b : Byte) :
    (decodeOpcode b).hasOperand = true ↔ b ∈ [0xEB#8, 0xCD#8, 0xB0#8, 0xB4#8] := by
  by_cases h : b ∈ definedOpcodes
  · revert b
    decide
  · rw [decodeOpcode_of_notMem h]
    simp [definedOpcodes] at h
    simp [Opcode.hasOperand, h]

theorem wf_unknownOpcode_iff (b : Byte) : (Instr.unknownOpcode b).wf = true ↔ b ∉ definedOpcodes := by
  simp [Instr.wf]

/-! ### How many bytes are unknown opcodes -/

/-- A byte as a number, against the six of the table. -/
theorem ofNat_mem_definedOpcodes_iff {n : Nat} (h : n < 256) :
    BitVec.ofNat 8 n ∈ definedOpcodes ↔ n ∈ ({0xEB, 0xCD, 0xB0, 0xB4, 0xF4, 0x90} : Finset Nat) := by
  simp [definedOpcodes, ← BitVec.toNat_inj, Nat.mod_eq_of_lt h]

/-- The well-formed unknown opcodes are the 256 bytes without the six (R57). -/
theorem filter_wf_unknownOpcode :
    (Finset.range 256).filter (fun n => (Instr.unknownOpcode (BitVec.ofNat 8 n)).wf) =
      Finset.range 256 \ {0xEB, 0xCD, 0xB0, 0xB4, 0xF4, 0x90} := by
  ext n
  rw [Finset.mem_filter, Finset.mem_sdiff, Finset.mem_range]
  exact and_congr_right fun h => (wf_unknownOpcode_iff _).trans (not_congr (ofNat_mem_definedOpcodes_iff h))

theorem countP_wf_unknownOpcode :
    (List.range 256).countP (fun n => (Instr.unknownOpcode (BitVec.ofNat 8 n)).wf) = 250 := by
  have hsub : ({0xEB, 0xCD, 0xB0, 0xB4, 0xF4, 0x90} : Finset Nat) ⊆ Finset.range 256 := by
    simp [Finset.insert_subset_iff]
  calc (List.range 256).countP (fun n => (Instr.unknownOpcode (BitVec.ofNat 8 n)).wf)
      = ((Finset.range 256).filter fun n => (Instr.unknownOpcode (BitVec.ofNat 8 n)).wf).card := by
        simp [List.countP_eq_length_filter, Finset.card, Finset.range, Finset.filter, Multiset.range]
    _ = 256 - 6 := by
        rw [filter_wf_unknownOpcode, Finset.card_sdiff_of_subset hsub, Finset.card_range]; rfl
/-! ### The decoder, by the shape of the byte list -/

theorem decode_two_bytes {b : Byte} (h : (decodeOpcode b).hasOperand = true) (op8 : Byte) (rest : List Byte) :
    decode (b :: op8 :: rest) = .ok ((decodeOpcode b).toInstr op8, rest) := by
  simp [decode, h]

theorem decode_operand_missing {b : Byte} (h : (decodeOpcode b).hasOperand = true) :
    decode [b] = .error (.operandByteMissing b) := by
  simp [decode, h]

theorem decode_one_byte {b : Byte} (h : (decodeOpcode b).hasOperand = false) (rest : List Byte) :
    decode (b :: rest) = .ok ((decodeOpcode b).toInstr 0#8, rest) := by
  simp [decode, h]

/-- An unknown opcode is decoded alone (R57, R59). -/
theorem decode_of_notMem {b : Byte} (h : b ∉ definedOpcodes) (rest : List Byte) :
    decode (b :: rest) = .ok (.unknownOpcode b, rest) := by
  have hop := decodeOpcode_of_notMem h
  rw [decode_one_byte (by rw [hop]; rfl), hop]
  rfl

/-- Everything `decode` can answer, with the bytes it answers it for. -/
theorem decode_cases (bs : List Byte) :
    (bs = [] ∧ decode bs = .error .noOpcodeByte) ∨
    (∃ b, bs = [b] ∧ (decodeOpcode b).hasOperand = true ∧ decode bs = .error (.operandByteMissing b)) ∨
    (∃ b op8 rest, bs = b :: op8 :: rest ∧ (decodeOpcode b).hasOperand = true ∧
      decode bs = .ok ((decodeOpcode b).toInstr op8, rest)) ∨
    ∃ b rest, bs = b :: rest ∧ (decodeOpcode b).hasOperand = false ∧
      decode bs = .ok ((decodeOpcode b).toInstr 0#8, rest) := by
  cases bs with
  | nil => exact .inl ⟨rfl, rfl⟩
  | cons b bs =>
    cases hop : (decodeOpcode b).hasOperand with
    | false => exact .inr (.inr (.inr ⟨b, bs, rfl, hop, decode_one_byte hop bs⟩))
    | true =>
      cases bs with
      | nil => exact .inr (.inl ⟨b, rfl, hop, decode_operand_missing hop⟩)
      | cons op8 rest => exact .inr (.inr (.inl ⟨b, op8, rest, rfl, hop, decode_two_bytes hop op8 rest⟩))

/-! ### The encoder on what an opcode selects -/

theorem operandByte_toInstr (o : Opcode) (op8 : Byte) :
    operandByte (o.toInstr op8) = if o.hasOperand then some op8 else none := by
  cases o <;> rfl

/-- Encoding what a byte selects gives that byte, and its operand byte where the format has one. -/
theorem encode_toInstr (b op8 : Byte) :
    encode ((decodeOpcode b).toInstr op8) = b :: if (decodeOpcode b).hasOperand then [op8] else [] := by
  rw [encode, Machine.opcodeByte_toInstr, operandByte_toInstr]
  split <;> rfl

/-! ### The obligations -/

/-- Settles O10: by the instruction; each of the six has its opcode byte, and an unknown opcode that is
well-formed takes none of the six. -/
theorem decodeOfEncodeIsTheInstruction : Obligations.DecodeOfEncodeIsTheInstruction := by
  intro i rest hwf
  cases i with
  | jmpShort op8 => exact decode_two_bytes (b := 0xEB#8) rfl op8 rest
  | intImm8 op8 => exact decode_two_bytes (b := 0xCD#8) rfl op8 rest
  | movAl op8 => exact decode_two_bytes (b := 0xB0#8) rfl op8 rest
  | movAh op8 => exact decode_two_bytes (b := 0xB4#8) rfl op8 rest
  | hlt => exact decode_one_byte (b := 0xF4#8) rfl rest
  | nop => exact decode_one_byte (b := 0x90#8) rfl rest
  | unknownOpcode b => exact decode_of_notMem ((wf_unknownOpcode_iff b).mp hwf) rest

/-- Settles O11: an instruction is decoded from two bytes or from one, and encodes to them. -/
theorem encodeOfDecodeIsTheBytes : Obligations.EncodeOfDecodeIsTheBytes := by
  intro bs i rest h
  obtain ⟨-, hd⟩ | ⟨b, -, -, hd⟩ | ⟨b, op8, rest', rfl, hop, hd⟩ | ⟨b, rest', rfl, hop, hd⟩ := decode_cases bs
    <;> rw [hd] at h <;> cases h
  · exact ⟨Machine.toInstr_wf b op8, by simp [encode_toInstr, hop]⟩
  · exact ⟨Machine.toInstr_wf b 0#8, by simp [encode_toInstr, hop]⟩

/-- Settles O12: of the four answers two are errors, and the missing operand byte is one of format F1. -/
theorem decodeRejectsOnlyBytesThatEndTooSoon : Obligations.DecodeRejectsOnlyBytesThatEndTooSoon := by
  intro bs e
  constructor
  · intro h
    obtain ⟨rfl, hd⟩ | ⟨b, rfl, hop, hd⟩ | ⟨b, op8, rest, -, -, hd⟩ | ⟨b, rest, -, -, hd⟩ := decode_cases bs
      <;> rw [hd] at h <;> cases h
    · exact .inl ⟨rfl, rfl⟩
    · exact .inr ⟨b, rfl, (hasOperand_decodeOpcode_iff b).mp hop, rfl⟩
  · rintro (⟨rfl, rfl⟩ | ⟨b, rfl, hmem, rfl⟩)
    · rfl
    · exact decode_operand_missing ((hasOperand_decodeOpcode_iff b).mpr hmem)

/-- Settles O7: sign extension keeps the signed value, and the sign is the top bit. -/
theorem relativeOffsetIsTwosComplement : Obligations.RelativeOffsetIsTwosComplement := by
  intro b
  have hext : (relOffset b).toInt = b.toInt := BitVec.toInt_signExtend_of_le (by decide)
  have hsign := b.toInt_eq_toNat_cond
  refine ⟨hext, b.le_toInt, Int.le_of_lt_add_one b.toInt_lt, fun hlow => ?_, fun hhigh => ?_⟩
  · rwa [if_pos (by omega)] at hsign
  · rwa [if_neg (by omega)] at hsign

/-- Settles O8: each word by the decoder's rule for its format. -/
theorem writtenOutWordsDecode : Obligations.WrittenOutWordsDecode :=
  ⟨decode_two_bytes rfl _ _, decode_two_bytes rfl _ _, decode_two_bytes rfl _ _, decode_two_bytes rfl _ _,
    decode_one_byte rfl _, decode_one_byte rfl _, decode_of_notMem (by decide) _⟩

/-- Settles O9: the six bytes are `definedOpcodes`, and 250 is 256 without them. -/
theorem everyOtherByteIsUnknown : Obligations.EveryOtherByteIsUnknown :=
  ⟨fun _ rest h => decode_of_notMem h rest, countP_wf_unknownOpcode⟩

end Sys2Proof
end

section
/-! SUPPORT. Control transfer (40_control_transfer.md): where a running engine reads an operand byte, what the short
jump does to IP, and the jump that is its own target. -/

namespace Sys2Proof.Machine

/-! ### The step of a two-byte instruction -/

/-- The bytes of an instruction are counted on from the physical address of its opcode (R36). -/
theorem instrAddr_eq_add_mod (s : State) (k : Nat) :
    instrAddr s k = ((phys s.cs s.ip).toNat + k) % 2 ^ 20 := by
  rw [instrAddr, BitVec.toNat_add, BitVec.toNat_ofNat, Nat.add_mod_mod]

/-- The operand byte of format F1 (R53). -/
theorem nextInstr_of_hasOperand {s : State} {b : Byte} (hop : s.fetchByte 0 = b)
    (hF1 : (decodeOpcode b).hasOperand = true) : nextInstr s = (decodeOpcode b).toInstr (s.fetchByte 1) := by
  rw [nextInstr_of_opcode hop, if_pos hF1]

/-- The step of format F1 (R53, R76), with its operand byte's address written out. -/
theorem step_of_hasOperand {s : State} {b : Byte} (hrun : s.run = .running) (hop : s.fetchByte 0 = b)
    (hF1 : (decodeOpcode b).hasOperand = true) :
    step s = exec ((decodeOpcode b).toInstr (Memory.byteAt s.mem (((phys s.cs s.ip).toNat + 1) % 2 ^ 20)))
      (emitTrace ((decodeOpcode b).toInstr (s.fetchByte 1)) s) := by
  rw [step_running s hrun, nextInstr_of_hasOperand hop hF1, ← instrAddr_eq_add_mod]
  rfl

/-! ### The target of a short jump -/

/-- The target as a number: exact arithmetic, wrapped once (R62). -/
theorem toNat_jumpTarget (ip0 : Word) (rel8 : Byte) :
    ((jumpTarget ip0 rel8).toNat : Int) = ((ip0.toNat : Int) + 2 + rel8.toInt) % 2 ^ 16 := by
  rw [jumpTarget_eq_ofInt, BitVec.toNat_ofInt]
  omega

/-- `rel8 = 0xFE` is -2, the jump's own length back (R62). -/
@[simp] theorem jumpTarget_self (ip0 : Word) : jumpTarget ip0 0xFE#8 = ip0 := by
  have hrel : 2#16 + relOffset 0xFE#8 = 0#16 := by decide
  rw [jumpTarget, BitVec.add_assoc, hrel, BitVec.add_zero]

/-! ### The jump to itself -/

/-- A trace record changes the trace and nothing else. -/
theorem emitTrace_eq_with_trace (i : Instr) (s : State) :
    emitTrace i s = { s with trace := (emitTrace i s).trace } := by
  unfold emitTrace
  split <;> rfl

/-- All that a step of the jump to itself does is its trace record. -/
theorem step_jump_to_itself {s : State} (hrun : s.run = .running) (h0 : s.fetchByte 0 = 0xEB#8)
    (h1 : s.fetchByte 1 = 0xFE#8) : step s = .next (emitTrace (.jmpShort 0xFE#8) s) := by
  have hnext : nextInstr s = .jmpShort 0xFE#8 := by rw [nextInstr_of_hasOperand h0 rfl, h1]; rfl
  rw [step_running s hrun, hnext, exec_jmpShort, jumpTarget_self]
  rfl

/-- The jump to itself runs for any number of steps, and only the trace can change. -/
theorem run?_jump_to_itself (k : Nat) {s : State} (hrun : s.run = .running) (h0 : s.fetchByte 0 = 0xEB#8)
    (h1 : s.fetchByte 1 = 0xFE#8) : ∃ records, s.run? k = .next { s with trace := records } := by
  induction k generalizing s with
  | zero => exact ⟨s.trace, rfl⟩
  | succ k ih =>
    rw [run?_succ_of_next k (step_jump_to_itself hrun h0 h1)]
    obtain ⟨records, hk⟩ := ih (s := emitTrace (.jmpShort 0xFE#8) s) (by simpa using hrun)
      (by simpa using h0) (by simpa using h1)
    rw [emitTrace_eq_with_trace] at hk ⊢
    exact ⟨records, hk⟩

/-! ### The obligations -/

/-- Settles O19: the jump writes IP only, and its opcode is of format F1. -/
theorem jmpShortMovesIpByTwoPlusOffset : Obligations.JmpShortMovesIpByTwoPlusOffset :=
  ⟨fun s rel8 => ⟨_, exec_jmpShort rel8 s, toNat_jumpTarget s.ip rel8, reg_setIp s _ .ax,
      (frame_setIp s _).keeps, ⟨rfl, rfl⟩, rfl, rfl⟩,
    fun _ hrun hop => step_of_hasOperand hrun hop rfl⟩

/-- Settles O44: by induction over the run only the trace changes; the rest is the frame of a run. -/
theorem jumpToItselfNeverEnds : Obligations.JumpToItselfNeverEnds := by
  intro k s hrun h0 h1
  obtain ⟨records, hk⟩ := run?_jump_to_itself k hrun h0 h1
  exact ⟨_, hk, hrun, rfl, rfl, rfl, rfl, (run?_frame hk).keeps⟩

end Sys2Proof.Machine
end

section
/-! SUPPORT. The software interrupt (41_software_interrupt.md): what a service emits and leaves unchanged, what an
instruction and a step append to `tty`, and the step of an unhandled service. -/

namespace Sys2Proof.Machine

/-! ### The service -/

/-- The convention outside teletype output: it selects what it does not handle (R64, R66, R67). -/
theorem serviceOutcome_of_not_teletype {n ah : Byte} (al : Byte) (h : ¬ (n = 0x10#8 ∧ ah = 0x0E#8)) :
    serviceOutcome n ah al = if n = 0x10#8 then .unhandledSubfunction ah else .unhandledInterrupt n := by
  by_cases hn : n = 0x10#8
  · have hah : ah ≠ 0x0E#8 := fun hah => h ⟨hn, hah⟩
    simp [serviceOutcome, Config.intVideo, Config.fnTeletype, hn, hah]
  · simp [serviceOutcome, Config.intVideo, hn]

/-- An unhandled service does nothing (R66, R67). -/
theorem service_of_not_teletype {n : Byte} {s : State} (h : ¬ (n = 0x10#8 ∧ s.ah = 0x0E#8)) :
    service n s = s := by
  obtain ⟨hn, hah, -, -⟩ | ⟨-, -, -, hs⟩ | ⟨-, -, hs⟩ := service_cases n s
  · exact absurd ⟨hn, hah⟩ h
  · exact hs
  · exact hs

/-- Teletype output emits AL (R65). -/
theorem service_teletype {s : State} (h : s.ah = 0x0E#8) : service 0x10#8 s = s.emitTty s.al := by
  obtain ⟨-, -, -, hs⟩ | ⟨-, hah, -, -⟩ | ⟨hn, -, -⟩ := service_cases 0x10#8 s
  · exact hs
  · exact absurd h hah
  · exact absurd rfl hn

/-- What a service appends to `tty`. -/
theorem service_tty (n : Byte) (s : State) :
    (service n s).tty = s.tty ++ (if n = 0x10#8 ∧ s.ah = 0x0E#8 then [s.al] else []) := by
  by_cases h : n = 0x10#8 ∧ s.ah = 0x0E#8
  · obtain ⟨rfl, hah⟩ := h
    simp [service_teletype hah, hah]
  · rw [service_of_not_teletype h, if_neg h, List.append_nil]

@[simp] theorem service_ip (n : Byte) (s : State) : (service n s).ip = s.ip := by
  obtain h | h := service_eq_emitTty_or_self n s <;> rw [h]
  rfl

@[simp] theorem reg_service (n : Byte) (s : State) (r : Reg) : (service n s).reg r = s.reg r := by
  obtain h | h := service_eq_emitTty_or_self n s <;> rw [h]
  exact reg_emitTty s s.al r

/-- `(IP0 + n) mod 2^16` (R20, R21). -/
theorem toNat_advance_ip (s : State) (n : Nat) : (s.advance n).ip.toNat = (s.ip.toNat + n) % 2 ^ 16 := by
  rw [advance_ip, BitVec.toNat_add, BitVec.toNat_ofNat, Nat.add_mod_mod]

/-! ### What an instruction and a step append to `tty` -/

/-- Only teletype output emits a byte, and the byte is AL (R65, R69, R70). -/
theorem exec_tty {i : Instr} {s t : State} (h : exec i s = .next t) :
    t.tty = s.tty ++ (if i = .intImm8 0x10#8 ∧ s.ah = 0x0E#8 then [s.al] else []) := by
  cases i with
  | intImm8 n => cases h; simpa using service_tty n s
  | jmpShort | movAl | movAh | hlt | nop | unknownOpcode => cases h; simp

/-- INT in the bytes at CS:IP (R63). -/
theorem nextInstr_of_int {s : State} (hop : s.fetchByte 0 = 0xCD#8) :
    nextInstr s = .intImm8 (s.fetchByte 1) :=
  nextInstr_of_hasOperand hop rfl

theorem nextInstr_eq_intImm8_iff (s : State) (n : Byte) :
    nextInstr s = .intImm8 n ↔ s.fetchByte 0 = 0xCD#8 ∧ s.fetchByte 1 = n := by
  constructor
  · intro h
    have hop : s.fetchByte 0 = 0xCD#8 := by rw [← opcodeByte_nextInstr, h]; rfl
    exact ⟨hop, Instr.intImm8.inj ((nextInstr_of_int hop).symm.trans h)⟩
  · rintro ⟨hop, rfl⟩
    exact nextInstr_of_int hop

/-! ### The step of an unhandled service -/

/-- All that an unhandled service does is its trace record and the advance of IP (R66, R67). -/
theorem step_unhandled_service {s : State} (hrun : s.run = .running) (hop : s.fetchByte 0 = 0xCD#8)
    (hun : ¬ (s.fetchByte 1 = 0x10#8 ∧ s.ah = 0x0E#8)) :
    step s = .next ((emitTrace (.intImm8 (s.fetchByte 1)) s).advance 2) := by
  rw [step_running s hrun, nextInstr_of_int hop, exec_intImm8, service_of_not_teletype (by simpa using hun)]

/-! ### The obligations -/

/-- Settles O20: INT is its service and then the advance of IP, and its opcode is of format F1. -/
theorem intEmitsAlForTeletypeAndAdvances : Obligations.IntEmitsAlForTeletypeAndAdvances := by
  refine ⟨fun s n => ⟨_, exec_intImm8 n s, ?_, ?_, reg_service n s .ax, (exec_frame (exec_intImm8 n s)).keeps,
    keepsRun_service n s, service_trace n s⟩, fun s hrun hop => step_of_hasOperand hrun hop rfl⟩
  · rw [advance_tty, service_tty]
    split
    · rfl
    · exact List.append_nil _
  · rw [toNat_advance_ip, service_ip]

/-- Settles O27: of the instructions only INT 0x10 with AH = 0x0E emits, and its bytes are 0xCD 0x10. -/
theorem eachStepEmitsAlOrNothing : Obligations.EachStepEmitsAlOrNothing := by
  intro s t hstep
  simpa [nextInstr_eq_intImm8_iff, and_assoc] using exec_tty (step_next hstep).2

/-- Settles O28: the step is the trace record and the advance of IP; the record is there only with DEBUG. -/
theorem unhandledServiceIsSeenOnlyInTheTrace : Obligations.UnhandledServiceIsSeenOnlyInTheTrace := by
  intro s hrun hop hun
  have hstep := step_unhandled_service hrun hop hun
  have htrace := step_trace hstep
  rw [nextInstr_of_int hop] at htrace
  refine ⟨_, hstep, ?_, by simp, (step_frame hstep).keeps, by simp [State.keepsRun], by simp, fun hd => ?_,
    fun hd => ⟨_, by rw [htrace, if_pos hd]; rfl, ?_⟩⟩
  · rw [toNat_advance_ip, emitTrace_ip]
  · simpa [hd] using htrace
  · rw [advance_ip, emitTrace_ip, serviceOutcome_of_not_teletype s.al hun]

end Sys2Proof.Machine
end

section
/-! SUPPORT. The accumulator byte loads (42_accumulator_load.md): AX as a number after a write to one of its bytes,
and as the join of both after the two writes in either order. -/

namespace Sys2Proof.Machine

/-! ### One byte write -/

/-- The low byte is new and the high byte is kept (R71). -/
theorem toNat_axWithAl (s : State) (v : Byte) :
    (s.axWithAl v).toNat = (s.reg .ax).toNat / 256 * 256 + v.toNat := by
  rw [State.axWithAl, toNat_joinBytes, toNat_ah]

/-- The high byte is new and the low byte is kept (R72). -/
theorem toNat_axWithAh (s : State) (v : Byte) :
    (s.axWithAh v).toNat = v.toNat * 256 + (s.reg .ax).toNat % 256 := by
  rw [State.axWithAh, toNat_joinBytes, toNat_al]

/-! ### The two byte writes -/

/-- The last write to a register is the one that stays. -/
@[simp] theorem setReg_setReg_same (s : State) (r : Reg) (v w : Word) :
    (s.setReg r v).setReg r w = s.setReg r w := by
  cases r <;> rfl

/-- AL and then AH: nothing of the old AX is left. -/
theorem setAh_setAl (s : State) (lo hi : Byte) :
    (s.setAl lo).setAh hi = s.setReg .ax (joinBytes hi lo) := by
  rw [State.setAh, State.axWithAh, al_setAl, State.setAl, setReg_setReg_same]

/-- AH and then AL: the same state as the other order. -/
theorem setAl_setAh (s : State) (lo hi : Byte) :
    (s.setAh hi).setAl lo = s.setReg .ax (joinBytes hi lo) := by
  rw [State.setAl, State.axWithAl, ah_setAh, State.setAh, setReg_setReg_same]

/-- A write to AH and an advance of IP commute. -/
theorem setAh_advance (s : State) (n : Nat) (v : Byte) : (s.advance n).setAh v = (s.setAh v).advance n := rfl

/-- A write to AL and an advance of IP commute. -/
theorem setAl_advance (s : State) (n : Nat) (v : Byte) : (s.advance n).setAl v = (s.setAl v).advance n := rfl

/-! ### The two loads -/

/-- `MOV AL, lo` and then `MOV AH, hi` (R73). -/
theorem exec_movAh_after_movAl (s : State) (lo hi : Byte) :
    exec (.movAh hi) ((s.setAl lo).advance 2) =
      .next (((s.setReg .ax (joinBytes hi lo)).advance 2).advance 2) := by
  rw [exec_movAh, setAh_advance, setAh_setAl]

/-- `MOV AH, hi` and then `MOV AL, lo` (R73). -/
theorem exec_movAl_after_movAh (s : State) (lo hi : Byte) :
    exec (.movAl lo) ((s.setAh hi).advance 2) =
      .next (((s.setReg .ax (joinBytes hi lo)).advance 2).advance 2) := by
  rw [exec_movAl, setAl_advance, setAl_setAh]

/-! ### The obligations -/

/-- Settles O21: the load is the write of AL and then the advance of IP, and its opcode is of format F1. -/
theorem movAlWritesTheLowByte : Obligations.MovAlWritesTheLowByte :=
  ⟨fun s imm8 => ⟨_, exec_movAl imm8 s, toNat_axWithAl s imm8, toNat_advance_ip (s.setAl imm8) 2,
      (exec_frame (exec_movAl imm8 s)).keeps, ⟨rfl, rfl⟩, rfl, rfl⟩,
    fun _ hrun hop => step_of_hasOperand hrun hop rfl⟩

/-- Settles O22: the load is the write of AH and then the advance of IP, and its opcode is of format F1. -/
theorem movAhWritesTheHighByte : Obligations.MovAhWritesTheHighByte :=
  ⟨fun s imm8 => ⟨_, exec_movAh imm8 s, toNat_axWithAh s imm8, toNat_advance_ip (s.setAh imm8) 2,
      (exec_frame (exec_movAh imm8 s)).keeps, ⟨rfl, rfl⟩, rfl, rfl⟩,
    fun _ hrun hop => step_of_hasOperand hrun hop rfl⟩

/-- Settles O23: either order writes the join of the two bytes to AX and advances IP twice. -/
theorem byteLoadsComposeInEitherOrder : Obligations.ByteLoadsComposeInEitherOrder := by
  intro s lo hi
  have hAl := exec_movAl lo s
  have hAh := exec_movAh_after_movAl s lo hi
  exact ⟨_, _, _, _, hAl, hAh, exec_movAh hi s, exec_movAl_after_movAh s lo hi, rfl, rfl,
    ((exec_frame hAl).trans (exec_frame hAh)).keeps⟩

end Sys2Proof.Machine
end

section
/-! SUPPORT. Processor control (43_processor_control.md): the step of a one-byte instruction, the report of a state
that has ended, and that nothing leads on from `Halted`. -/

namespace Sys2Proof.Machine

/-! ### The step of a one-byte instruction -/

/-- No operand byte in format F0 (R52). -/
theorem nextInstr_of_not_hasOperand {s : State} {b : Byte} (hop : s.fetchByte 0 = b)
    (hF0 : (decodeOpcode b).hasOperand = false) : nextInstr s = (decodeOpcode b).toInstr 0#8 := by
  rw [nextInstr_of_opcode hop, hF0]
  rfl

/-- The step of format F0 (R52, R76). -/
theorem step_of_not_hasOperand {s : State} {b : Byte} (hrun : s.run = .running) (hop : s.fetchByte 0 = b)
    (hF0 : (decodeOpcode b).hasOperand = false) :
    step s = exec ((decodeOpcode b).toInstr 0#8) (emitTrace ((decodeOpcode b).toInstr 0#8) s) := by
  rw [step_running s hrun, nextInstr_of_not_hasOperand hop hF0]

/-! ### After the end of a run -/

/-- The status of an ended block reports the termination record (R95). -/
theorem status_record_terminate (w : Termination) (s : State) :
    (terminate w s).status.map StatusReport.record = some w := rfl

/-- No step resumes a halted engine (R27, R74). -/
theorem step_ne_next_of_halted {s : State} (h : s.run = .halted) (t : State) : step s ≠ .next t := by
  rw [step_of_halted h]
  exact nofun

/-- No load restarts a halted block (R99). -/
theorem load_ne_next_of_halted {s : State} (h : s.run = .halted) (image : List Byte) (d : Bool) (t : State) :
    load image d s ≠ .next t := by
  intro hload
  have hidle := load_next_idle hload
  rw [h] at hidle
  cases hidle

/-! ### The obligations -/

/-- Settles O24: HLT writes the run state and the termination record only, `Halted` is terminal, and the opcode is
of format F0. -/
theorem hltEndsTheRunCleanly : Obligations.HltEndsTheRunCleanly := by
  refine ⟨fun s => ?_, fun _ hrun hop => step_of_not_hasOperand hrun hop rfl⟩
  have hhalted : (terminate .cleanHalt s).run = .halted := rfl
  exact ⟨_, exec_hlt s, hhalted, rfl, status_record_terminate .cleanHalt s, rfl, reg_terminate .cleanHalt s .ax,
    (frame_terminate .cleanHalt s).keeps, rfl, rfl, step_ne_next_of_halted hhalted, load_ne_next_of_halted hhalted⟩

/-- Settles O25: NOP is the advance of IP by one, and its opcode is of format F0. -/
theorem nopAdvancesIpByOne : Obligations.NopAdvancesIpByOne :=
  ⟨fun s => ⟨_, exec_nop s, toNat_advance_ip s 1, reg_advance s 1 .ax, (frame_advance s 1).keeps,
      ⟨rfl, rfl⟩, rfl, rfl⟩,
    fun _ hrun hop => step_of_not_hasOperand hrun hop rfl⟩

end Sys2Proof.Machine
end

section
/-! SUPPORT. Exceptional conditions (60_exceptions.md): the instruction the decoder reads at CS:IP, and that two
states which differ at most in DEBUG and the trace go on differing at most there. -/

namespace Sys2Proof.Machine

/-! ### The decoded instruction -/

/-- What the decoder reads from the two bytes at the instruction address is what a running engine performs next. -/
theorem nextInstr_of_decode {s : State} {i : Instr} {rest : List Byte}
    (h : decode [s.fetchByte 0, s.fetchByte 1] = .ok (i, rest)) : nextInstr s = i := by
  cases hop : (decodeOpcode (s.fetchByte 0)).hasOperand with
  | true =>
    rw [decode_two_bytes hop] at h
    cases h
    exact nextInstr_of_hasOperand rfl hop
  | false =>
    rw [decode_one_byte hop] at h
    cases h
    exact nextInstr_of_not_hasOperand rfl hop

/-! ### States that differ at most in DEBUG and the trace (R94) -/

theorem agreeButTrace_iff {s t : State} :
    s.agreeButTrace t ↔ ∃ d records, t = { s with debug := d, trace := records } := by
  constructor
  · exact fun h => ⟨t.debug, t.trace, h.symm⟩
  · rintro ⟨d, records, rfl⟩
    rfl

/-- An instruction is fetched from CS, IP and memory, so agreeing states fetch the same. -/
theorem nextInstr_eq_of_agreeButTrace {s s' : State} (h : s.agreeButTrace s') : nextInstr s = nextInstr s' := by
  obtain ⟨d, records, rfl⟩ := agreeButTrace_iff.mp h
  rfl

/-- Agreeing states still agree after a trace record in each, whatever is recorded. -/
theorem emitTrace_agreeButTrace {s s' : State} (i i' : Instr) (h : s.agreeButTrace s') :
    (emitTrace i s).agreeButTrace (emitTrace i' s') := by
  obtain ⟨d, records, rfl⟩ := agreeButTrace_iff.mp h
  rw [emitTrace_eq_with_trace i, emitTrace_eq_with_trace i']
  rfl

/-- A service reads AX and writes `tty`. -/
theorem service_agreeButTrace {s s' : State} (n : Byte) (h : s.agreeButTrace s') :
    (service n s).agreeButTrace (service n s') := by
  have hah' : s'.ah = s.ah := by rw [← h]; rfl
  by_cases htele : n = 0x10#8 ∧ s.ah = 0x0E#8
  · obtain ⟨rfl, hah⟩ := htele
    rw [service_teletype hah, service_teletype (hah'.trans hah)]
    obtain ⟨d, records, rfl⟩ := agreeButTrace_iff.mp h
    rfl
  · rwa [service_of_not_teletype htele, service_of_not_teletype (by rwa [hah'])]

theorem advance_agreeButTrace {s s' : State} (n : Nat) (h : s.agreeButTrace s') :
    (s.advance n).agreeButTrace (s'.advance n) := by
  obtain ⟨d, records, rfl⟩ := agreeButTrace_iff.mp h
  rfl

/-- No instruction reads DEBUG or the trace. -/
theorem exec_agreeButTrace {s s' : State} (i : Instr) (h : s.agreeButTrace s') :
    outcomesAgreeButTrace (exec i s) (exec i s') := by
  cases i with
  | intImm8 n => exact advance_agreeButTrace 2 (service_agreeButTrace n h)
  | jmpShort | movAl | movAh | hlt | nop | unknownOpcode =>
    obtain ⟨d, records, rfl⟩ := agreeButTrace_iff.mp h
    rfl

/-- Agreeing states have agreeing steps: the same fault outside `Running`, the same instruction in it. -/
theorem step_agreeButTrace {s s' : State} (h : s.agreeButTrace s') :
    outcomesAgreeButTrace (step s) (step s') := by
  have hrun' : s'.run = s.run := by rw [← h]
  cases hrun : s.run with
  | running =>
    rw [step_running s hrun, step_running s' (hrun'.trans hrun), nextInstr_eq_of_agreeButTrace h]
    exact exec_agreeButTrace _ (emitTrace_agreeButTrace _ _ h)
  | idle | loadFailed | halted => simp [step, engineStep, hrun', hrun, outcomesAgreeButTrace]

/-- Agreement carries over from steps to runs. -/
theorem run?_agreeButTrace (k : Nat) {s s' : State} (h : s.agreeButTrace s') :
    outcomesAgreeButTrace (s.run? k) (s'.run? k) := by
  induction k generalizing s s' with
  | zero => exact h
  | succ k ih =>
    have hstep := step_agreeButTrace h
    cases hs : step s <;> cases hs' : step s' <;> rw [hs, hs'] at hstep
    case next.next t t' =>
      rw [run?_succ_of_next k hs, run?_succ_of_next k hs']
      exact ih hstep
    case fault.fault r r' =>
      rw [run?_succ_of_fault k hs, run?_succ_of_fault k hs']
      exact hstep
    case refused.refused r r' =>
      rw [run?_succ_of_refused k hs, run?_succ_of_refused k hs']
      exact hstep
    all_goals exact hstep.elim

/-- Which end a load comes to, and over which memory, does not depend on the debug flag. -/
theorem load_idle_forall_debug (image : List Byte) {s : State} (h : s.run = .idle) :
    (∃ w, ∀ d, load image d s = .next (terminate w s)) ∨ ∃ m, ∀ d, load image d s = .next (startState m d) := by
  obtain ⟨w, hv, -⟩ | ⟨hv, m, hm, -⟩ := load_idle_cases image true s h
  · exact .inl ⟨w, fun d => by simp [load, h, hv]⟩
  · exact .inr ⟨m, fun d => by simp [load, h, hv, hm]⟩

/-- Loads of one image with different debug flags agree: a run that starts holds the flag in DEBUG only (R29). -/
theorem load_agreeButTrace {image : List Byte} {d d' : Bool} {s t t' : State} (h : load image d s = .next t)
    (h' : load image d' s = .next t') : t.agreeButTrace t' := by
  obtain ⟨w, hl⟩ | ⟨m, hl⟩ := load_idle_forall_debug image (load_next_idle h) <;>
    rw [hl] at h h' <;> cases h <;> cases h' <;> rfl

/-! ### The obligations -/

/-- Settles O32: by induction over the run, each step reads neither DEBUG nor the trace; and two loads of one image
agree at the start. -/
theorem traceDoesNotInterfere : Obligations.TraceDoesNotInterfere :=
  ⟨fun k _ _ => run?_agreeButTrace k,
    fun k _ _ _ _ hload hload' => run?_agreeButTrace k (load_agreeButTrace hload hload')⟩

/-- Settles O17: a step that writes a termination record writes one that is true, and this reason never is. -/
theorem noStepEndsWithAddressOutOfRange : Obligations.NoStepEndsWithAddressOutOfRange := by
  intro s t a hstep hterm
  obtain ⟨-, hkeep⟩ | ⟨w, -, htrue, rfl⟩ := step_run_cases hstep
  · exact hkeep.symm.trans hterm
  · obtain rfl : w = .addressOutOfRange a := Option.some.inj hterm
    exact htrue.elim

/-- Settles O14: the decoder's instruction is the one the engine performs next. -/
theorem stepRunsTheDecodedInstruction : Obligations.StepRunsTheDecodedInstruction := by
  intro s i rest hrun hdecode
  rw [step_running s hrun, nextInstr_of_decode hdecode]

end Sys2Proof.Machine
end

section
/-! SUPPORT. Reset and load (70_reset_and_hazards.md): what the validation answers for each kind of image, what the
load makes of the answer, and the bytes that stand in the sector where the run starts. -/

namespace Sys2Proof.Machine

/-! ### The validation, one answer per kind of image -/

/-- A short image fails on its length alone (R100, R102). -/
theorem validateImage_of_short {image : List Byte} (hlen : image.length < 512) :
    validateImage image = some (.imageTooShort image.length) :=
  if_pos hlen

theorem validateImage_of_validImage {image : List Byte} (hvalid : validImage image) :
    validateImage image = none := by
  obtain ⟨hshort, -⟩ | ⟨-, hbad, -⟩ | ⟨-, hv⟩ := validateImage_cases image
  · exact absurd hvalid.1 (Nat.not_le.mpr hshort)
  · exact absurd hvalid hbad
  · exact hv

/-- The report of a failed signature check holds the two bytes that were checked (R101). -/
theorem validateImage_of_wrong_signature {image : List Byte} {b b' : Byte} (hlen : 512 ≤ image.length)
    (hb : image[510]? = some b) (hb' : image[511]? = some b') (hsig : b ≠ 0x55#8 ∨ b' ≠ 0xAA#8) :
    validateImage image = some (.invalidSignature b b') := by
  have h510 : image.getD 510 0#8 = b := by rw [List.getD_eq_getElem?_getD, hb, Option.getD_some]
  have h511 : image.getD 511 0#8 = b' := by rw [List.getD_eq_getElem?_getD, hb', Option.getD_some]
  obtain ⟨hshort, -⟩ | ⟨-, -, hv⟩ | ⟨⟨-, hok, hok'⟩, -⟩ := validateImage_cases image
  · exact absurd hlen (Nat.not_le.mpr hshort)
  · rwa [h510, h511] at hv
  · exact (hsig.elim (· (h510.symm.trans hok)) (· (h511.symm.trans hok'))).elim

/-- The validation of a long image reads its bytes 510 and 511 only, so the sector decides it. -/
theorem validateImage_take {image : List Byte} (hlen : 512 ≤ image.length) :
    validateImage (image.take 512) = validateImage image := by
  have htake : (image.take 512).length = 512 := List.length_take_of_le hlen
  have hbyte : ∀ i, i < 512 → (image.take 512).getD i 0#8 = image.getD i 0#8 := fun i hi => by
    simp only [List.getD_eq_getElem?_getD, List.getElem?_take_of_lt hi]
  have hpass : ¬ image.length < Config.sectorSize := Nat.not_lt.mpr hlen
  have hpass' : ¬ (image.take 512).length < Config.sectorSize := by rw [htake]; exact Nat.lt_irrefl 512
  rw [validateImage, validateImage, if_neg hpass, if_neg hpass', hbyte Config.sigOffset0 (by decide),
    hbyte Config.sigOffset1 (by decide)]

/-! ### The load, by what the validation answers -/

theorem load_of_validateImage_some {s : State} {image : List Byte} {w : Termination} (d : Bool)
    (hidle : s.run = .idle) (hv : validateImage image = some w) :
    load image d s = .next (terminate w s) := by
  simp [load, hidle, hv]

/-- Of the image, a load reads the validation's answer and the sector. -/
theorem load_congr {image image' : List Byte} (d : Bool) (s : State)
    (hv : validateImage image = validateImage image') (hsector : image.take 512 = image'.take 512) :
    load image d s = load image' d s := by
  rw [load, load, hv, Config.sectorSize, hsector]

/-- Staging bytes that fit puts byte `i` of them at `addr + i`. -/
theorem byteAt_stage_inside {bs : List Byte} {addr i : Nat} {m m' : Memory}
    (hfit : addr + bs.length ≤ Config.memSize) (h : stage Config.memSize addr bs m = .ok m')
    (hi : i < bs.length) : bs[i]? = some (Memory.byteAt m' (addr + i)) := by
  obtain ⟨m₁, hm₁, hbyte, -⟩ := stage_spec bs addr m hfit
  obtain rfl : m₁ = m' := Except.ok.inj (hm₁.symm.trans h)
  rw [hbyte, if_pos (by omega), Nat.add_sub_cancel_left, List.getD_eq_getElem _ _ hi,
    List.getElem?_eq_getElem hi]

/-- The load of a valid image starts a run over a memory whose sector holds the image's first bytes
(R103, R106, R107). -/
theorem load_of_validImage {s : State} {image : List Byte} (d : Bool) (hidle : s.run = .idle)
    (hvalid : validImage image) :
    ∃ m, load image d s = .next (startState m d) ∧
      ∀ i, i < 512 → image[i]? = some (Memory.byteAt m (0x7C00 + i)) := by
  obtain ⟨w, hw, -⟩ | ⟨-, m, hm, hl⟩ := load_idle_cases image d s hidle
  · rw [validateImage_of_validImage hvalid] at hw
    cases hw
  · have htake : (image.take Config.sectorSize).length = 512 := List.length_take_of_le hvalid.1
    refine ⟨m, hl, fun i hi => ?_⟩
    rw [← List.getElem?_take_of_lt (show i < Config.sectorSize from hi)]
    exact byteAt_stage_inside (by rw [htake]; decide) hm (by rwa [htake])

/-! ### The first instruction of a run -/

/-- The instruction bytes of a run that starts stand at the head of the sector (R107). -/
theorem fetchByte_startState (m : Memory) (d : Bool) {k : Nat} (hk : k < 512) :
    (startState m d).fetchByte k = Memory.byteAt m (0x7C00 + k) := by
  have hphys : (phys (startState m d).cs (startState m d).ip).toNat = 0x7C00 := toNat_phys_zero Config.loadOff
  have haddr : instrAddr (startState m d) k = 0x7C00 + k := by
    rw [instrAddr_eq_add_mod, hphys]
    omega
  rw [State.fetchByte, haddr]
  rfl

/-- An instruction is at most two bytes long, so two bytes decode to what they head. -/
theorem decode_first_two {bs rest : List Byte} {i : Instr} {b b' : Byte} (hb : bs[0]? = some b)
    (hb' : bs[1]? = some b') (h : decode bs = .ok (i, rest)) : ∃ rest', decode [b, b'] = .ok (i, rest') := by
  obtain ⟨tail, rfl⟩ : ∃ tail, bs = b :: b' :: tail := by
    match bs, hb, hb' with
    | _ :: _ :: tail, rfl, rfl => exact ⟨tail, rfl⟩
  cases hop : (decodeOpcode b).hasOperand with
  | true =>
    rw [decode_two_bytes hop] at h
    cases h
    exact ⟨[], decode_two_bytes hop b' []⟩
  | false =>
    rw [decode_one_byte hop] at h
    cases h
    exact ⟨[b'], decode_one_byte hop [b']⟩

/-! ### The obligations -/

/-- Settles O39: the sector is staged and no other byte written, and the rest is `startState`. -/
theorem validLoadStagesTheSectorAndStarts : Obligations.ValidLoadStagesTheSectorAndStarts := by
  intro s image d hidle hvalid
  obtain ⟨m, hl, hsector⟩ := load_of_validImage d hidle hvalid
  exact ⟨startState m d, hl, hsector, fun a hout => byteAt_load_outside hl hout, fun r => by cases r <;> rfl,
    rfl, rfl, rfl, rfl, rfl, rfl, rfl, rfl⟩

/-- Settles O40: the validation and the staging both read the first 512 bytes only. -/
theorem trailingImageBytesAreIgnored : Obligations.TrailingImageBytesAreIgnored :=
  fun s _ d hlen => load_congr d s (validateImage_take hlen).symm (by rw [List.take_take, Nat.min_self])

/-- Settles O42: the image's first two bytes stand where the run starts, and they decode to its first
instruction. -/
theorem firstStepPerformsTheImagesFirstInstruction : Obligations.FirstStepPerformsTheImagesFirstInstruction := by
  intro s t image d i rest hidle hvalid hload hdecode
  obtain ⟨m, hl, hsector⟩ := load_of_validImage d hidle hvalid
  obtain rfl : t = startState m d := Host.Outcome.next.inj (hload.symm.trans hl)
  have hfetch : ∀ k, k < 512 → image[k]? = some ((startState m d).fetchByte k) := fun k hk => by
    rw [fetchByte_startState m d hk, hsector k hk]
  obtain ⟨rest', hfirst⟩ := decode_first_two (hfetch 0 (by decide)) (hfetch 1 (by decide)) hdecode
  exact stepRunsTheDecodedInstruction _ i rest' rfl hfirst

/-- Settles O36: the length is checked first, and a failed load writes no memory. -/
theorem shortImageFailsWhateverItHolds : Obligations.ShortImageFailsWhateverItHolds :=
  fun _ _ d hidle hlen =>
    ⟨_, load_of_validateImage_some d hidle (validateImage_of_short hlen), rfl, rfl, fun _ => rfl⟩

/-- Settles O37: an image that is long enough fails on its two signature bytes. -/
theorem wrongSignatureFails : Obligations.WrongSignatureFails :=
  fun _ _ d _ _ hidle hlen hb hb' hsig =>
    ⟨_, load_of_validateImage_some d hidle (validateImage_of_wrong_signature hlen hb hb' hsig), rfl, rfl⟩

end Sys2Proof.Machine
end

section
/-! SUPPORT. The rest of the system: canonical memories as data, the assembler's jump operand, in which run states
a step and a load are accepted, the order of the terminations, and the IP and the trace record of a step. -/

namespace Sys2Proof.Machine

/-! ### Canonical memories (20_memory.md section 1) -/

/-- A canonical memory lists no address below its lower bound. -/
theorem Memory.listed_eq_none_of_lt {lo a : Nat} {m : Memory} (hm : Memory.risingFrom lo m = true)
    (ha : a < lo) : Memory.listed m a = none := by
  induction m generalizing lo with
  | nil => rfl
  | cons c m ih =>
    obtain ⟨k, v⟩ := c
    simp only [Memory.risingFrom, Bool.and_eq_true, decide_eq_true_eq] at hm
    obtain ⟨⟨hlo, -⟩, htail⟩ := hm
    rw [Memory.listed, if_neg (by omega), ih htail (by omega)]

/-- A canonical memory's first address is the lowest it lists, and its tail lists the others. -/
theorem Memory.risingFrom_cons {lo k : Nat} {v : Byte} {m : Memory}
    (h : Memory.risingFrom lo ((k, v) :: m) = true) :
    Memory.risingFrom (k + 1) m = true ∧ Memory.listed ((k, v) :: m) k = some v ∧
      (∀ a, a < k → Memory.listed ((k, v) :: m) a = none) ∧
      ∀ a, Memory.listed m a = if a = k then none else Memory.listed ((k, v) :: m) a := by
  simp only [Memory.risingFrom, Bool.and_eq_true, decide_eq_true_eq] at h
  obtain ⟨-, htail⟩ := h
  refine ⟨htail, if_pos rfl, fun a ha => ?_, fun a => ?_⟩
  · rw [Memory.listed, if_neg (by omega), Memory.listed_eq_none_of_lt htail (by omega)]
  · split
    · exact Memory.listed_eq_none_of_lt htail (by omega)
    · rw [Memory.listed, if_neg (by omega)]

/-- Neither of two canonical memories that list the same bytes begins below the other. -/
theorem Memory.head_le_of_listed_eq {lo k k' : Nat} {v v' : Byte} {m m' : Memory}
    (h' : Memory.risingFrom lo ((k', v') :: m') = true)
    (heq : ∀ a, Memory.listed ((k, v) :: m) a = Memory.listed ((k', v') :: m') a) : k' ≤ k := by
  obtain ⟨-, -, hbelow, -⟩ := Memory.risingFrom_cons h'
  by_contra hlt
  have hk := (heq k).trans (hbelow k (by omega))
  simp [Memory.listed] at hk

theorem Memory.eq_of_listed_eq {lo : Nat} {m m' : Memory} (hm : Memory.risingFrom lo m = true)
    (hm' : Memory.risingFrom lo m' = true) (heq : ∀ a, Memory.listed m a = Memory.listed m' a) : m = m' := by
  induction m generalizing lo m' with
  | nil =>
    cases m' with
    | nil => rfl
    | cons c' m' => simpa [Memory.listed] using heq c'.1
  | cons c m ih =>
    cases m' with
    | nil => simpa [Memory.listed] using heq c.1
    | cons c' m' =>
      obtain ⟨k, v⟩ := c
      obtain ⟨k', v'⟩ := c'
      obtain rfl : k = k' := Nat.le_antisymm (Memory.head_le_of_listed_eq hm fun a => (heq a).symm)
        (Memory.head_le_of_listed_eq hm' heq)
      obtain ⟨htail, hv, -, hrest⟩ := Memory.risingFrom_cons hm
      obtain ⟨htail', hv', -, hrest'⟩ := Memory.risingFrom_cons hm'
      obtain rfl : v = v' := Option.some.inj (hv.symm.trans ((heq k).trans hv'))
      rw [ih htail htail' fun a => by rw [hrest, hrest', heq]]

/-! ### The assembler's operand of a short jump (30_encoding.md section 5) -/

/-- The low byte of a sign-extended displacement is the operand byte itself. -/
theorem setWidth_relOffset (rel8 : Byte) : (relOffset rel8).setWidth 8 = rel8 := by
  ext k hk
  rw [BitVec.getElem_setWidth, relOffset, BitVec.getLsbD_signExtend]
  simp [hk, (show k < 16 by omega)]

/-- The assembler writes a byte exactly where its jump reaches the target (R60, R62). -/
theorem assembleJmpShort_eq_some_iff (ip0 target : Word) (rel8 : Byte) :
    assembleJmpShort ip0 target = some rel8 ↔ jumpTarget ip0 rel8 = target := by
  constructor
  · intro h
    simp only [assembleJmpShort, Option.ite_none_right_eq_some, Option.some.injEq] at h
    obtain ⟨hfits, rfl⟩ := h
    rw [jumpTarget, hfits, add_sub_cancel]
  · rintro rfl
    simp [assembleJmpShort, jumpTarget, setWidth_relOffset]

/-! ### Where a step and a load are accepted (R27, R99) -/

theorem step_of_idle {s : State} (h : s.run = .idle) : step s = .fault .engineIdle := by
  simp [step, engineStep, h]

theorem step_of_loadFailed {s : State} (h : s.run = .loadFailed) : step s = .fault .engineLoadFailed := by
  simp [step, engineStep, h]

/-- Every instruction completes from every state. -/
theorem exec_completes (i : Instr) (s : State) : ∃ t, exec i s = .next t := by
  cases i <;> exact ⟨_, rfl⟩

theorem step_completes {s : State} (h : s.run = .running) : ∃ t, step s = .next t := by
  rw [step_running s h]
  exact exec_completes _ _

theorem load_completes {s : State} (image : List Byte) (d : Bool) (h : s.run = .idle) :
    ∃ t, load image d s = .next t := by
  obtain ⟨w, -, hl⟩ | ⟨-, m, -, hl⟩ := load_idle_cases image d s h
  · exact ⟨_, hl⟩
  · exact ⟨_, hl⟩

theorem load_refused {s : State} (image : List Byte) (d : Bool) (h : s.run ≠ .idle) :
    load image d s = .refused .loadNotIdle := by
  unfold load
  cases hrun : s.run with
  | idle => exact absurd hrun h
  | loadFailed | running | halted => rfl

/-- An image that fails has one of the two reasons of a failed load (R100, R101). -/
theorem validateImage_of_not_validImage {image : List Byte} (h : ¬ validImage image) :
    ∃ w, validateImage image = some w ∧ (w = .imageTooShort image.length ∨ ∃ b b', w = .invalidSignature b b') := by
  obtain ⟨-, hv⟩ | ⟨-, -, hv⟩ | ⟨hvalid, -⟩ := validateImage_cases image
  · exact ⟨_, hv, .inl rfl⟩
  · exact ⟨_, hv, .inr ⟨_, _, rfl⟩⟩
  · exact absurd hvalid h

/-! ### A fetch over a memory of any size (R37, R82) -/

theorem fetch_of_opcode_outside {size : Nat} {s : State} (h : size ≤ instrAddr s 0) :
    fetch size s = .error (instrAddr s 0) := by
  rw [fetch, memRead_of_le s.mem h]

theorem fetch_of_not_hasOperand {size : Nat} {s : State} (h : instrAddr s 0 < size)
    (hF0 : (decodeOpcode (s.fetchByte 0)).hasOperand = false) :
    fetch size s = .ok ((decodeOpcode (s.fetchByte 0)).toInstr 0#8) := by
  unfold State.fetchByte at hF0 ⊢
  simp [fetch, memRead_of_lt s.mem h, hF0]

theorem fetch_of_operand_outside {size : Nat} {s : State} (h : instrAddr s 0 < size)
    (hF1 : (decodeOpcode (s.fetchByte 0)).hasOperand = true) (h1 : size ≤ instrAddr s 1) :
    fetch size s = .error (instrAddr s 1) := by
  unfold State.fetchByte at hF1
  simp [fetch, memRead_of_lt s.mem h, memRead_of_le s.mem h1, hF1]

/-- An unknown opcode reads no second byte (R59). -/
theorem fetch_of_notMem {size : Nat} {s : State} (h : instrAddr s 0 < size)
    (hun : s.fetchByte 0 ∉ definedOpcodes) : fetch size s = .ok (.unknownOpcode (s.fetchByte 0)) := by
  have hop := decodeOpcode_of_notMem hun
  rw [fetch_of_not_hasOperand h (by rw [hop]; rfl), hop]
  rfl

theorem engineStep_of_fetch_error {size a : Nat} {s : State} (hrun : s.run = .running)
    (h : fetch size s = .error a) : engineStep size s = .next (terminate (.addressOutOfRange a) s) := by
  simp [engineStep, hrun, h]

theorem engineStep_of_fetch_ok {size : Nat} {s : State} {i : Instr} (hrun : s.run = .running)
    (h : fetch size s = .ok i) : engineStep size s = exec i (emitTrace i s) := by
  simp [engineStep, hrun, h]

/-! ### The new IP (R20) -/

/-- The IP that an instruction at `ip0` leaves: the table of R20, by instruction. -/
def nextIp (i : Instr) (ip0 : Word) : Word :=
  match i with
  | .jmpShort rel8 => jumpTarget ip0 rel8
  | .intImm8 _ | .movAl _ | .movAh _ => ip0 + 2#16
  | .nop => ip0 + 1#16
  | .hlt | .unknownOpcode _ => ip0

theorem exec_ip {i : Instr} {s t : State} (h : exec i s = .next t) : t.ip = nextIp i s.ip := by
  cases i with
  | intImm8 n => cases h; rw [advance_ip, service_ip]; rfl
  | jmpShort | movAl | movAh | hlt | nop | unknownOpcode => cases h; rfl

theorem step_ip {s t : State} (h : step s = .next t) : t.ip = nextIp (nextInstr s) s.ip := by
  rw [exec_ip (step_next h).2, emitTrace_ip]

/-- The two-byte instructions that do not jump. -/
theorem nextIp_nextInstr_of_mem {s : State} (h : s.fetchByte 0 ∈ [0xB0#8, 0xB4#8, 0xCD#8]) :
    nextIp (nextInstr s) s.ip = s.ip + 2#16 := by
  simp only [List.mem_cons, List.not_mem_nil, or_false] at h
  obtain hop | hop | hop := h <;> rw [nextInstr_of_hasOperand hop rfl] <;> rfl

/-- Only the five opcodes of the table move IP. -/
theorem nextIp_nextInstr_of_notMem {s : State}
    (h : s.fetchByte 0 ∉ [0x90#8, 0xB0#8, 0xB4#8, 0xCD#8, 0xEB#8]) : nextIp (nextInstr s) s.ip = s.ip := by
  rw [← opcodeByte_nextInstr] at h
  cases hi : nextInstr s with
  | hlt | unknownOpcode => rfl
  | jmpShort | intImm8 | movAl | movAh | nop => simp [hi, opcodeByte] at h

/-! ### The trace record of a step (R91 to R93) -/

/-- A step at a defined opcode has a record to trace, with these fields. -/
theorem traceRecord_of_mem {s : State} (h : s.fetchByte 0 ∈ definedOpcodes) :
    ∃ r, traceRecord (nextInstr s) s = some r ∧ r.cs = s.cs ∧ r.ip0 = s.ip ∧ r.opcode = s.fetchByte 0 ∧
      r.operand = traceOperand (nextInstr s) ∧ traceOutcome (nextInstr s) s = some r.outcome := by
  obtain ⟨o, ho⟩ : ∃ o, traceOutcome (nextInstr s) s = some o := by
    cases hi : nextInstr s with
    | unknownOpcode b =>
      rw [← fetchByte_eq_of_nextInstr_unknown hi] at h
      exact absurd h (notMem_definedOpcodes_of_nextInstr_unknown hi)
    | jmpShort | intImm8 | movAl | movAh | hlt | nop => exact ⟨_, rfl⟩
  exact ⟨_, by rw [traceRecord, ho]; rfl, rfl, rfl, opcodeByte_nextInstr s, rfl, ho⟩

theorem traceRecord_of_notMem {s : State} (h : s.fetchByte 0 ∉ definedOpcodes) :
    traceRecord (nextInstr s) s = none := by
  rw [nextInstr_of_unknown h]
  rfl

/-- Where the trace names teletype output, the service emits the byte it names. -/
theorem service_tty_of_outcome {n c : Byte} {s : State} (h : serviceOutcome n s.ah s.al = .teletype c) :
    (service n s).tty = s.tty ++ [c] := by
  rw [service, h]
  rfl

/-- The trace names teletype output exactly where the service emits a byte. -/
theorem serviceOutcome_teletype_iff (n : Byte) (s : State) :
    (∃ c, serviceOutcome n s.ah s.al = .teletype c) ↔ (service n s).tty ≠ s.tty := by
  constructor
  · rintro ⟨c, hc⟩
    simp [service_tty_of_outcome hc]
  · intro htty
    obtain ⟨-, -, ho, -⟩ | ⟨-, -, -, hs⟩ | ⟨-, -, hs⟩ := service_cases n s
    · exact ⟨_, ho⟩
    · exact absurd (congrArg State.tty hs) htty
    · exact absurd (congrArg State.tty hs) htty

/-- What a step at a known instruction performs. -/
theorem step_exec {s t : State} {i : Instr} (h : step s = .next t) (hi : nextInstr s = i) :
    exec i (emitTrace i s) = .next t := by
  rw [← hi]
  exact (step_next h).2

theorem traced_jmpShort {s t : State} (h : step s = .next t) (hop : s.fetchByte 0 = 0xEB#8) :
    traceOperand (nextInstr s) = .rel (s.fetchByte 1).toInt ∧
      traceOutcome (nextInstr s) s = some (.newIp t.ip) := by
  rw [step_ip h, nextInstr_of_hasOperand hop rfl]
  exact ⟨rfl, rfl⟩

theorem traced_nop {s t : State} (h : step s = .next t) (hop : s.fetchByte 0 = 0x90#8) :
    traceOperand (nextInstr s) = .none ∧ traceOutcome (nextInstr s) s = some (.newIp t.ip) := by
  rw [step_ip h, nextInstr_of_not_hasOperand hop rfl]
  exact ⟨rfl, rfl⟩

theorem traced_hlt {s t : State} (h : step s = .next t) (hop : s.fetchByte 0 = 0xF4#8) :
    traceOperand (nextInstr s) = .none ∧ traceOutcome (nextInstr s) s = some .halt ∧
      t.term = some .cleanHalt := by
  have hi : nextInstr s = .hlt := nextInstr_of_not_hasOperand hop rfl
  cases step_exec h hi
  rw [hi]
  exact ⟨rfl, rfl, rfl⟩

theorem traced_mov {s t : State} (h : step s = .next t) (hop : s.fetchByte 0 ∈ [0xB0#8, 0xB4#8]) :
    traceOperand (nextInstr s) = .byte (s.fetchByte 1) ∧
      traceOutcome (nextInstr s) s = some (.load (t.reg .ax) t.ip) := by
  simp only [List.mem_cons, List.not_mem_nil, or_false] at hop
  obtain hop | hop := hop
  · have hi : nextInstr s = .movAl (s.fetchByte 1) := nextInstr_of_hasOperand hop rfl
    cases step_exec h hi
    simp [hi, traceOperand, traceOutcome, State.axWithAl]
  · have hi : nextInstr s = .movAh (s.fetchByte 1) := nextInstr_of_hasOperand hop rfl
    cases step_exec h hi
    simp [hi, traceOperand, traceOutcome, State.axWithAh]

/-- The service outcome in the record is the one that the step's service then follows. -/
theorem traced_int {s t : State} (h : step s = .next t) (hop : s.fetchByte 0 = 0xCD#8) :
    traceOperand (nextInstr s) = .byte (s.fetchByte 1) ∧
      ∃ o, traceOutcome (nextInstr s) s = some (.service o t.ip) ∧
        ((∃ c, o = .teletype c) ↔ t.tty ≠ s.tty) ∧ ∀ c, o = .teletype c → t.tty = s.tty ++ [c] := by
  have hi := nextInstr_of_int hop
  have htty : t.tty = (service (s.fetchByte 1) s).tty := by
    cases step_exec h hi
    simp [service_tty]
  rw [htty, step_ip h, hi]
  exact ⟨rfl, _, rfl, serviceOutcome_teletype_iff _ s, fun _ => service_tty_of_outcome⟩

/-! ### The obligations -/

/-- Settles O3: by induction over both lists; their first addresses are each the lowest listed. -/
theorem canonicalMemoriesWithEqualBytesAreEqual : Obligations.CanonicalMemoriesWithEqualBytesAreEqual :=
  fun _ _ => Memory.eq_of_listed_eq

/-- Settles O13: both halves are directions of one equivalence. -/
theorem assembledJumpReachesItsTarget : Obligations.AssembledJumpReachesItsTarget :=
  ⟨fun ip0 target rr => (assembleJmpShort_eq_some_iff ip0 target rr).mp,
    fun ip0 rr => (assembleJmpShort_eq_some_iff ip0 _ rr).mpr rfl⟩

/-- Settles O15: in `Running` the instruction completes, and each other run state has its fault. -/
theorem engineStepsExactlyWhenRunning : Obligations.EngineStepsExactlyWhenRunning :=
  fun _ => ⟨step_completes, step_of_idle, step_of_loadFailed, fun hhalted =>
    ⟨step_of_halted hhalted, fun image d => load_refused image d (by simp [hhalted])⟩⟩

/-- Settles O16: by what the fetch answers, in the order of its checks. -/
theorem terminationsAreTestedInOrder : Obligations.TerminationsAreTestedInOrder := by
  refine fun size s hrun => ⟨fun hout => ?_, fun hin hun => ?_, fun hin hop hout => ?_⟩
  · exact engineStep_of_fetch_error hrun (fetch_of_opcode_outside hout)
  · rw [engineStep_of_fetch_ok hrun (fetch_of_notMem hin hun), emitTrace_unknownOpcode]
    rfl
  · exact engineStep_of_fetch_error hrun
      (fetch_of_operand_outside hin ((hasOperand_decodeOpcode_iff _).mpr hop) hout)

/-- Settles O18: the new IP is `nextIp` of the instruction that the opcode byte selects. -/
theorem eachStepWritesIpByTheTable : Obligations.EachStepWritesIpByTheTable := by
  intro s t hstep
  rw [step_ip hstep]
  refine ⟨fun hop => ?_, fun hop => ?_, fun hop => ?_, nextIp_nextInstr_of_notMem⟩
  · rw [nextInstr_of_not_hasOperand hop rfl]
    exact toNat_advance_ip s 1
  · rw [nextIp_nextInstr_of_mem hop]
    exact toNat_advance_ip s 2
  · rw [nextInstr_of_hasOperand hop rfl]
    exact toNat_jumpTarget s.ip (s.fetchByte 1)

/-- Settles O30: a step appends its record, which a defined opcode has and an unknown one has not. -/
theorem traceGrowsByOneRecordWhenDebug : Obligations.TraceGrowsByOneRecordWhenDebug := by
  intro s t hstep
  rw [step_trace hstep]
  by_cases hdef : s.fetchByte 0 ∈ definedOpcodes
  · obtain ⟨r, hr, -⟩ := traceRecord_of_mem hdef
    cases hd : s.debug <;> simp [hdef, hr]
  · simp [hdef, traceRecord_of_notMem hdef]

/-- Settles O31: the record is written before the instruction is performed; opcode by opcode, it foretells what
the step then does. -/
theorem traceRecordTellsTheStepsOutcome : Obligations.TraceRecordTellsTheStepsOutcome := by
  intro s t hstep hd hdef
  obtain ⟨r, hr, hcs, hip0, hopcode, hoperand, hout⟩ := traceRecord_of_mem hdef
  refine ⟨r, by simp [step_trace hstep, hd, hr], hcs, hip0, hopcode, ?_⟩
  simp only [hoperand, ← Option.some_inj (a := r.outcome), ← hout]
  exact ⟨traced_jmpShort hstep, traced_int hstep, traced_mov hstep, traced_hlt hstep, traced_nop hstep⟩

/-- Settles O35: both cases of a load in `Idle` answer a next state. -/
theorem loadIsAcceptedExactlyInIdle : Obligations.LoadIsAcceptedExactlyInIdle :=
  fun _ image d => ⟨load_completes image d, load_refused image d⟩

/-- Settles O38: a failed load is `terminate` with its reason, which leaves `LoadFailed`. -/
theorem failedLoadLeavesOnlyItsReport : Obligations.FailedLoadLeavesOnlyItsReport := by
  intro s image d hidle hbad
  obtain ⟨w, hv, hreason⟩ := validateImage_of_not_validImage hbad
  have hfailed : (terminate w s).run = .loadFailed :=
    Termination.runAfter_of_not_ran (validateImage_eq_some hv).1
  refine ⟨terminate w s, w, load_of_validateImage_some d hidle hv, hfailed, rfl, hreason,
    status_record_terminate w s, (frame_terminate w s).keeps, reg_terminate w s .ax, rfl, rfl, rfl,
    fun t' => ?_, fun image' d' => load_refused image' d' (by rw [hfailed]; exact nofun)⟩
  rw [step_of_loadFailed hfailed]
  exact nofun

/-- Settles O1: each field as `State.reset` writes it. -/
theorem resetBlockIsIdleAndEmpty : Obligations.ResetBlockIsIdleAndEmpty :=
  ⟨rfl, rfl, rfl, rfl, rfl, rfl, fun r => by cases r <;> rfl, rfl, rfl, rfl⟩

/-- Settles O5: the address is counted on from the opcode's, and past offset 0xFFFF it does not wrap to zero. -/
theorem instructionBytesAreAtIncreasingAddresses : Obligations.InstructionBytesAreAtIncreasingAddresses :=
  ⟨instrAddr_eq_add_mod, fun s hcs hip => by rw [instrAddr_eq_add_mod, hcs, hip, toNat_phys_zero]; rfl⟩

/-- Settles O26: `terminate` writes the run state and the record only, and an unknown opcode is not traced. -/
theorem unknownOpcodeEndsTheRunAndIsReported : Obligations.UnknownOpcodeEndsTheRunAndIsReported := by
  refine ⟨fun s b => ⟨_, exec_unknownOpcode b s, rfl, rfl, status_record_terminate _ s, rfl,
    reg_terminate _ s .ax, (frame_terminate _ s).keeps, rfl, rfl⟩, fun s hrun hun => ?_⟩
  rw [step_running s hrun, nextInstr_of_unknown hun, emitTrace_unknownOpcode]

/-- Settles O33: by the reason; the run state left is decided by its 'ran' mark. -/
theorem statusReportsCodeAndWhetherItRan : Obligations.StatusReportsCodeAndWhetherItRan := by
  intro s w
  refine ⟨by cases w <;> rfl, ?_⟩
  rw [terminate_run]
  cases hran : w.ran with
  | true => simp [Termination.runAfter_of_ran hran]
  | false => simp [Termination.runAfter_of_not_ran hran]

end Sys2Proof.Machine
end
